-- ==== Sys2Proof/Word.lean ====
section
/-! DEFINITION. The bytes and words of the part: characters of the roof line and of the service
port are bytes, words of the configuration store have 16 data bits. -/

namespace Sys2Proof

/-- One character of the roof line (R2) or one byte of the service port (R174). -/
abbrev Byte := BitVec 8

/-- The data of one word of the configuration store (R170), or a check (R21). -/
abbrev Word := BitVec 16

/-- A reading of the 10-bit converter (R32, R52, R53, R56, R71). -/
abbrev Raw := BitVec 10

/-- The high byte of a 16-bit value: a field of two bytes is sent high byte first. -/
def Word.hi (w : Word) : Byte := w.extractLsb' 8 8

/-- The low byte of a 16-bit value. -/
def Word.lo (w : Word) : Byte := w.extractLsb' 0 8

/-- A 16-bit value from its two bytes, high byte first. -/
def Word.ofBytes (hi lo : Byte) : Word := hi ++ lo

/-- A quantity of at most 65535 as the two bytes that carry it, high byte first. -/
def natBytes (n : Nat) : List Byte := [Word.hi (BitVec.ofNat 16 n), Word.lo (BitVec.ofNat 16 n)]

/-- The quantity that two bytes carry, high byte first. -/
def natOfBytes (hi lo : Byte) : Nat := (Word.ofBytes hi lo).toNat

end Sys2Proof
end

