-- ==== Sys2Proof/Syntax.lean ====
section
/-! DEFINITION. The commands of the part: one constructor for each row of the table of operations
and events. An operand stands for what arrives with the event from outside the part: a reading of a
terminal, the number of a channel or of a bay, characters on the line, bytes at the service port. -/

namespace Sys2Proof

/-- One of four: a channel CH1 to CH4, or a smoke zone 1 to 4. -/
inductive Quad where
  | one | two | three | four
  deriving DecidableEq, Repr, Inhabited

/-- A vent channel, CH1 to CH4. -/
abbrev Chan := Quad

/-- A smoke zone, 1 to 4. -/
abbrev Zone := Quad

/-- The number of a channel or zone, 1 to 4. -/
def Quad.number : Quad → Nat
  | .one => 1
  | .two => 2
  | .three => 3
  | .four => 4

/-- The channel or zone of a number, where there is one. -/
def Quad.ofNumber : Nat → Option Quad
  | 1 => some .one
  | 2 => some .two
  | 3 => some .three
  | 4 => some .four
  | _ => none

/-- The four in ascending order: channel order, zone order. -/
def Quad.all : List Quad := [.one, .two, .three, .four]

/-- The commands. A time in the name of an operand is in its unit: line times are in bit times. -/
inductive Instr where
  -- Start-up (R158 to R162)
  /-- FULL_RESET. BAY0-BAY4 as read, SVC as read, and whether the line is dominant at the reset
  instant. -/
  | fullReset (straps : BitVec 5) (svc lineDominant : Bool)
  /-- PRESENCE_CHANNEL_TEST. The channel whose test ends, and whether a load was found. -/
  | presenceChannelTest (c : Chan) (load : Bool)
  /-- PRESENCE_END. The bias of the anemometer input, the converter readings of vane, rain plate and
  heat detector, and the driver's over-temperature flag at that instant. -/
  | presenceEnd (anemoBias : Bool) (vane rain heat : Raw) (driverFlag : Bool)
  /-- LISTEN_END. -/
  | listenEnd
  -- The roof line (R2 to R14)
  /-- NOTICE_RECEIVED. The characters of the notice that no CHARACTER_END has taken yet. -/
  | noticeReceived (rest : List Byte)
  /-- GAP. -/
  | gap
  /-- SPAN_11_BIT_TIMES. -/
  | span11BitTimes
  /-- RECOVERY_COMPLETE. -/
  | recoveryComplete
  /-- SPAN_RELEASE. The reading of the span timer at the release, in bit times. -/
  | spanRelease (len : Nat)
  /-- LINE_STUCK. -/
  | lineStuck
  /-- ATTEMPT_BEGIN. The idle count, in bit times. -/
  | attemptBegin (idle : Nat)
  /-- LOST_CONTENTION. -/
  | lostContention
  /-- ECHO_FAULT. -/
  | echoFault
  /-- CLEAN_ECHO. -/
  | cleanEcho
  /-- PREEMPTIVE_BREAK. -/
  | preemptiveBreak
  /-- BREAK_END. The reading of the span timer in bit times where the line is released with the
  break, nothing where another station still holds it. -/
  | breakEnd (released : Option Nat)
  /-- PULSE_BEGIN. Where the drive reaches the line, the edge it makes comes as DOMINANT_EDGE (R6, R78). -/
  | pulseBegin
  /-- PULSE_END. The reading of the span timer in bit times where the line reads recessive with the release, 0 where the timer sees no
  span (R78); nothing where another station still holds the line. -/
  | pulseEnd (released : Option Nat)
  -- Schedules (R25 to R33)
  /-- FIRE_RESEND. -/
  | fireResend
  /-- OVERRIDE_REPEAT. -/
  | overrideRepeat
  /-- STATUS_PERIODIC. -/
  | statusPeriodic
  /-- STATUS_SPACING_EXPIRY. -/
  | statusSpacingExpiry
  /-- WEATHER_PERIOD. -/
  | weatherPeriod
  /-- VDEM_SAMPLE. The converter reading of the VDEM terminal. -/
  | vdemSample (raw : Raw)
  /-- VENTILATE_PERIOD. -/
  | ventilatePeriod
  /-- HEALTH_PERIOD. -/
  | healthPeriod
  -- Peer View (R42 to R47)
  /-- REPORT_EXPIRY of the weather report of a bay. -/
  | reportExpiry (bay : Nat)
  /-- ENTRY_STALE of the entry of a bay. -/
  | entryStale (bay : Nat)
  /-- ENTRY_REMOVAL of the entry of a bay. -/
  | entryRemoval (bay : Nat)
  /-- BAY_CONFLICT_EXPIRY. -/
  | bayConflictExpiry
  -- Sensors (R50 to R63)
  /-- GATE_END. The rising edges counted at ANEMO since the gate began, and the converter reading of
  the vane. -/
  | gateEnd (pulses : Nat) (vane : Raw)
  /-- RAIN_SCAN. The converter reading of the rain plate. -/
  | rainScan (raw : Raw)
  /-- HEAT_SAMPLE. The converter reading of the HEAT terminal. -/
  | heatSample (raw : Raw)
  /-- STORM_CLEAR_EXPIRY. -/
  | stormClearExpiry
  -- Fire loop, general alarm and keys (R71 to R91)
  /-- LOOP_READING. The converter reading of the LOOP terminal. -/
  | loopReading (raw : Raw)
  /-- LOOP_SETTLE. -/
  | loopSettle
  /-- CONTACT_CLEAR_EXPIRY. -/
  | contactClearExpiry
  /-- GENERAL_TIMER_EXPIRY. -/
  | generalTimerExpiry
  /-- PULSE_TIMER_EXPIRY. -/
  | pulseTimerExpiry
  /-- FKEY_READING. Whether the OPEN contact and the CLOSE contact are closed. -/
  | fkeyReading (openClosed closeClosed : Bool)
  /-- FKEY_TAKEN. -/
  | fkeyTaken
  /-- OVERRIDE_ORIGIN_EXPIRY of the origin of a bay. -/
  | overrideOriginExpiry (bay : Nat)
  /-- LKEY_READING. Whether the OPEN contact and the CLOSE contact are closed. -/
  | lkeyReading (openClosed closeClosed : Bool)
  /-- LKEY_TAKEN. -/
  | lkeyTaken
  /-- VENTILATION_ORIGIN_EXPIRY of the origin of a bay. -/
  | ventilationOriginExpiry (bay : Nat)
  /-- REFERENCE_TIMER_EXPIRY of a channel. -/
  | referenceTimerExpiry (c : Chan)
  -- Start budget (R112 to R127)
  /-- SETTLE_EXPIRY. -/
  | settleExpiry
  /-- ITEM_AGE_OUT of the item of a bay. -/
  | itemAgeOut (bay : Nat)
  /-- ISOLATED_START. -/
  | isolatedStart
  -- Channel drive (R131 to R146)
  /-- HALL_PULSE of a channel. -/
  | hallPulse (c : Chan)
  /-- COAST_WINDOW_CLOSE of a channel. -/
  | coastWindowClose (c : Chan)
  /-- INRUSH_MASK_END of a channel. -/
  | inrushMaskEnd (c : Chan)
  /-- CURRENT_REPORT of a channel: the mean measured current of the last 100 ms, in 0.1 A. -/
  | currentReport (c : Chan) (mean : Nat)
  /-- STALL of a channel. -/
  | stall (c : Chan)
  /-- OVERCURRENT of a channel. -/
  | overcurrent (c : Chan)
  /-- NO_PULSE of a channel. -/
  | noPulse (c : Chan)
  /-- OPEN_LOAD of a channel. -/
  | openLoad (c : Chan)
  /-- RETRY_EXPIRY of a channel. -/
  | retryExpiry (c : Chan)
  /-- REVERSAL_PAUSE_END of a channel. -/
  | reversalPauseEnd (c : Chan)
  /-- JOG_TIMER_EXPIRY of a channel. -/
  | jogTimerExpiry (c : Chan)
  -- Duty and thermal limits (R148 to R154)
  /-- DUTY_WINDOW_END of a channel. -/
  | dutyWindowEnd (c : Chan)
  /-- RUN_TICK of a channel. -/
  | runTick (c : Chan)
  /-- THROTTLE_END of a channel. -/
  | throttleEnd (c : Chan)
  /-- DRIVER_FLAG_SET. -/
  | driverFlagSet
  /-- THERMAL_HOLD_END. The driver's over-temperature flag as read at that instant. -/
  | thermalHoldEnd (flag : Bool)
  -- Motor supply and lamp (R164 to R168)
  /-- VMOT_READING. The motor supply in 0.1 V. -/
  | vmotReading (decivolts : Nat)
  /-- SUPPLY_LOW_SET. -/
  | supplyLowSet
  /-- SUPPLY_LOW_CLEAR. -/
  | supplyLowClear
  /-- SUPPLY_HIGH_SET. -/
  | supplyHighSet
  /-- SUPPLY_HIGH_CLEAR. -/
  | supplyHighClear
  /-- LAMP_CYCLE_STEP. -/
  | lampCycleStep
  -- Service port (R174 to R177)
  /-- REQUEST_TIMEOUT. -/
  | requestTimeout
  /-- READ_WORD. The word index. -/
  | readWord (index : Byte)
  /-- READ_STAGE. The word index. -/
  | readStage (index : Byte)
  /-- STAGE_WORD. The word index and the value. -/
  | stageWord (index : Byte) (value : Word)
  /-- PROGRAM. -/
  | program
  /-- PROGRAM_WORD_WRITTEN. -/
  | programWordWritten
  /-- READ_STATE. -/
  | readState
  /-- JOG. The channel, the direction and the time in ms, as the request carries them. -/
  | jog (channel direction : Byte) (time : Word)
  /-- STOP. The channel as the request carries it. -/
  | stop (channel : Byte)
  /-- READ_PEER. The bay as the request carries it. -/
  | readPeer (bay : Byte)
  -- Characters and edges of the line (R2, R4)
  /-- START_BIT_SAMPLE. Whether the line reads dominant at the sample. -/
  | startBitSample (dominant : Bool)
  /-- CHARACTER_END. The eight data bits, and whether the stop bit read recessive. -/
  | characterEnd (char : Byte) (stopRecessive : Bool)
  /-- DOMINANT_EDGE. -/
  | dominantEdge
  /-- BAD_COMMAND_REQUEST. The bytes that arrive at SRX. -/
  | badCommandRequest (bytes : List Byte)
  deriving DecidableEq, Repr

end Sys2Proof
end

