-- ==== Sys2Proof/Decode.lean ====
section
/-! DEFINITION. The command that a word spells by the bits of the table. No row of the table gives bits: every command arrives as an
event, with its operands from outside the part. So no word spells one. -/

namespace Sys2Proof

/-- The command of a word, for the rows that give bits: there are none. -/
def decodeTableWord (_nbits _w : Nat) : Option Instr := none

end Sys2Proof
end

