-- ==== Sys2Proof/Config.lean ====
section
/-! DEFINITION. What the spec leaves open: the free values. Each is an opaque constant, so that no
proof can rest on what it is. -/

namespace Sys2Proof

/-- What decoding a store word gives besides its data (R171, R174): no error, one error corrected,
two errors found. -/
inductive DecodeStatus where
  | clean | corrected | uncorrectable
  deriving DecidableEq, Repr, Inhabited

/-- R170 states what decoding does with one and with two wrong bits among the 22. For three or more
it states nothing: the data and the status are free. A function of the data that was written and of
which bits are wrong. Log entry 6. -/
opaque Config.manyErrors : Word → BitVec 22 → Word × DecodeStatus

/-- R177: the word being written when programming is cut short decodes as uncorrectable. What its data
bits then read is not stated: a free value, fresh for each such word. Log entry 5. -/
opaque Config.tornData : Nat → Word

end Sys2Proof
end

