-- ==== Sys2Proof/Machine/Types.lean ====
section
/-! DEFINITION. The data of the blocks: notices, configuration fields, and what each block keeps. -/

namespace Sys2Proof.Machine

open Sys2Proof

/-- One value for each channel CH1 to CH4, or for each zone 1 to 4. -/
structure Four (α : Type) where
  one : α
  two : α
  three : α
  four : α
  deriving DecidableEq, Repr, Inhabited

/-- The value of one channel or zone. -/
def Four.get {α : Type} (f : Four α) : Quad → α
  | .one => f.one
  | .two => f.two
  | .three => f.three
  | .four => f.four

/-- The four with the value of one channel or zone replaced. -/
def Four.set {α : Type} (f : Four α) (c : Quad) (a : α) : Four α :=
  match c with
  | .one => { f with one := a }
  | .two => { f with two := a }
  | .three => { f with three := a }
  | .four => { f with four := a }

/-- The same value four times. -/
def Four.all {α : Type} (a : α) : Four α := ⟨a, a, a, a⟩

/-- The four values in channel or zone order. -/
def Four.toList {α : Type} (f : Four α) : List α := [f.one, f.two, f.three, f.four]

/-- The channels or zones whose value is set, in order. -/
def Four.members (f : Four Bool) : List Quad := Quad.all.filter f.get

/-- A timer: the milliseconds it still has to run, or nothing while it is stopped. -/
abbrev Timer := Option Nat

/-! ## Channels -/

/-- The eight channel states (R129). -/
inductive ChState where
  | absent | unreferenced | idle | waiting | running | reversing | referencing | faulted
  deriving DecidableEq, Repr, Inhabited

/-- The six sources in precedence order (R90). -/
inductive Source where
  | override | fire | weather | localKey | ventilate | jog
  deriving DecidableEq, Repr, Inhabited

/-- A target: a position in tenths of a percent open, or, for FIRE alone, a hold (R90). -/
inductive Target where
  | pos (t : Nat)
  | hold
  deriving DecidableEq, Repr, Inhabited

/-- The winning source with its winning target, or none (R92). -/
abbrev Winner := Option (Source × Target)

/-- A movement stops at its target or is a reference run (section 6.4). -/
inductive MoveKind where
  | ordinary | reference
  deriving DecidableEq, Repr, Inhabited

/-- The Demand Unit's order to the Drive Unit: kind, target and, for a REFERENCE movement, the source
it is formed for (section 6.4, R105). -/
structure Movement where
  kind : MoveKind
  target : Nat
  formedFor : Option Source
  deriving DecidableEq, Repr, Inhabited

/-- A direction of drive. -/
inductive Dir where
  | opening | closing
  deriving DecidableEq, Repr, Inhabited

/-- An end of travel. -/
inductive Extreme where
  | closedEnd | openEnd
  deriving DecidableEq, Repr, Inhabited

/-- What the response table does with a channel (R85). -/
inductive FireAction where
  | none | open | close | freeze
  deriving DecidableEq, Repr, Inhabited

/-- A jog being served: its direction, the time requested in ms, and the jog timer, which is stopped
until the first start of the channel after the acceptance (R146). -/
structure Jog where
  dir : Dir
  time : Nat
  timer : Timer
  deriving DecidableEq, Repr, Inhabited

/-- The source set of a channel but for JOG, which the jog being served gives (R90). -/
structure Sources where
  override : Option Nat
  fire : Option Target
  weather : Bool
  localKey : Option Nat
  ventilate : Option Nat
  deriving DecidableEq, Repr, Inhabited

/-- The Demand Unit's state of one channel (chapter 6). -/
structure ChDemand where
  /-- The winning source and target. -/
  win : Winner
  /-- The movement in hand. -/
  movement : Option Movement
  /-- The pending target. -/
  pending : Option Target
  refDue : Bool
  moveCount : Nat
  /-- The 7-day reference timer. -/
  refTimer : Timer
  /-- The standing demand, recorded at the start of the supply veto (R94). -/
  standing : Option Winner
  deriving DecidableEq, Repr, Inhabited

/-- The Drive Unit's state of one channel but for the channel state (chapter 8). -/
structure ChDrive where
  /-- The direction driven; nothing while the motor is not driven. -/
  dir : Option Dir
  /-- The direction last driven, which a coast pulse follows (R131). -/
  lastDir : Option Dir
  count : Nat
  referenced : Bool
  /-- The end at which the channel rests. -/
  restEnd : Option Extreme
  coast : Timer
  inrushMask : Timer
  /-- Runs from the end of the mask, 200 ms; its run is restarted by the current, outside the State. -/
  stallTimer : Timer
  /-- Runs from the start, 20 ms; as the stall timer. -/
  overcurrentTimer : Timer
  /-- Runs from the end of the mask, 200 ms; as the stall timer. -/
  openLoadTimer : Timer
  noPulseTimer : Timer
  /-- The 100 ms to the next report of the measured current (R134). -/
  reportTimer : Timer
  /-- The reported current of a driven channel, in 0.1 A. -/
  current : Option Nat
  retryCount : Nat
  retryTimer : Timer
  /-- A retry held over by the supply veto (R141). -/
  retryHeld : Bool
  reversalTimer : Timer
  jog : Option Jog
  deriving DecidableEq, Repr, Inhabited

/-- The Limit Unit's state of one channel (chapter 9). -/
structure ChLimit where
  window : Timer
  /-- The milliseconds the run tick timer has accumulated towards the next 100 ms. -/
  tickAcc : Nat
  runCounter : Nat
  throttled : Bool
  throttleTimer : Timer
  /-- The limit veto as last handed to the Demand Unit (R155). -/
  veto : Bool
  deriving DecidableEq, Repr, Inhabited

/-- The Fire Unit's state of one channel (R85 to R87); the fire demand is the FIRE source. -/
structure ChFire where
  action : FireAction
  /-- The FREEZE capture. -/
  capture : Option Target
  deriving DecidableEq, Repr, Inhabited

/-- The Weather Unit's results for one channel (R65 to R68). -/
structure ChWind where
  wn : Nat
  limit : Nat
  block : Bool
  deriving DecidableEq, Repr, Inhabited

/-- Everything the part keeps for one channel. -/
structure Channel where
  state : ChState
  src : Sources
  dem : ChDemand
  drv : ChDrive
  lim : ChLimit
  fire : ChFire
  wind : ChWind
  deriving DecidableEq, Repr, Inhabited

/-! ## Notices -/

/-- The contention class of a notice (R19). -/
inductive NoticeClass where
  | alarm | motion | routine
  deriving DecidableEq, Repr, Inhabited

/-- The eight kinds (R19). -/
inductive Kind where
  | fire | fireClear | override | claim | status | weather | ventilate | health
  deriving DecidableEq, Repr, Inhabited

/-- The key states an OVERRIDE notice carries (R20). -/
inductive KeyState where
  | released | open | close
  deriving DecidableEq, Repr, Inhabited

/-- The mode a STATUS notice carries (R20). -/
inductive RunMode where
  | normal | isolated | service
  deriving DecidableEq, Repr, Inhabited

/-- One channel record of a STATUS notice, one channel summary of a peer entry (R20, R35). -/
structure ChanRecord where
  state : ChState
  source : Option Source
  position : Nat
  deriving DecidableEq, Repr, Inhabited

/-- The content of a STATUS notice, the status part of a peer entry (R29, R35). -/
structure StatusContent where
  mode : RunMode
  zone : Zone
  /-- The zones reported with a non-empty origin set. -/
  fireZones : Four Bool
  general : Bool
  current : Nat
  channels : List ChanRecord
  deriving DecidableEq, Repr, Inhabited

/-- A weather report: each field present or absent on its own (R20, R35, R55). -/
structure Report where
  mean : Option Nat
  gust : Option Nat
  direction : Option Nat
  /-- Wet or dry. -/
  rain : Option Bool
  deriving DecidableEq, Repr, Inhabited

/-- The outcome of the load (R171). -/
inductive LoadOutcome where
  | clean | corrected | lost
  deriving DecidableEq, Repr, Inhabited

/-- The content of a HEALTH notice, the health summary of a peer entry (R33, R35). -/
structure HealthContent where
  valid : Nat
  discard : Nat
  dropped : Nat
  signature : Word
  outcome : LoadOutcome
  lastCorrected : Nat
  codes : List Nat
  deriving DecidableEq, Repr, Inhabited

/-- A notice without its head, bay, length and check (R20). The cause set of FIRE is its two bits
CONTACT and HEAT. -/
inductive Notice where
  | fire (zone : Zone) (contact heat : Bool)
  | fireClear (zone : Zone)
  | override (key : KeyState)
  | claim (channels : Four Bool) (inrush : Nat) (fire : Bool)
  | status (content : StatusContent)
  | weather (report : Report)
  | ventilate (zones : Four Bool) (target : Nat)
  | health (content : HealthContent)
  deriving DecidableEq, Repr, Inhabited

/-! ## The configuration -/

/-- The fields of one channel (R170). -/
structure ChannelFields where
  fitted : Bool
  facing : Nat
  /-- Nothing: the stroke is unknown (R172). -/
  stroke : Option Nat
  inrush : Nat
  run : Nat
  stall : Nat
  deriving DecidableEq, Repr, Inhabited

/-- The field values that all blocks take their settings from (R170, R172). -/
structure Fields where
  zone : Nat
  ventZones : Nat
  ch : Four ChannelFields
  anemoFitted : Bool
  vaneFitted : Bool
  rainFitted : Bool
  heatFitted : Bool
  demandFitted : Bool
  /-- The columns of the response table for zones 1 to 4. -/
  response : Four (Four FireAction)
  /-- The column for the general alarm. -/
  responseGeneral : Four FireAction
  aStart : Nat
  aFire : Nat
  aRun : Nat
  k : Nat
  northOffset : Nat
  rainThreshold : Nat
  /-- In ms. -/
  rainPeriod : Nat
  /-- In minutes. -/
  rainHold : Nat
  cal : Nat
  sHeat : Nat
  th : Nat
  rr : Nat
  wvLo : Nat
  wvHi : Nat
  wStorm : Nat
  wf : Nat
  wHys : Nat
  /-- In seconds. -/
  dutyWindow : Nat
  /-- In percent. -/
  duty : Nat
  throttleFactor : Nat
  deriving DecidableEq, Repr, Inhabited

/-- One word as the store holds it (R170): the data last written into it, and which of its 22 bits now
differ from what was written, data bits in 15 to 0 and check bits in 21 to 16. What decoding gives
depends on no more than this, whichever code the check bits follow. -/
structure StoreWord where
  written : Word
  wrong : BitVec 22
  deriving DecidableEq, Repr, Inhabited

/-- The Configuration Store (chapter 11). -/
structure ConfigStore where
  /-- The store, words 0 to 63. -/
  store : List StoreWord
  /-- The factory calibration row. -/
  factory : StoreWord
  /-- The loaded image, words 0 to 63 as decoded at the load. -/
  image : List Word
  outcome : LoadOutcome
  lastCorrected : Nat
  fields : Fields
  deriving DecidableEq, Repr, Inhabited

/-- The service port (R174 to R178). -/
structure Service where
  /-- The staging image; empty outside SERVICE mode. -/
  staging : List Word
  /-- The bytes of the request being assembled. -/
  rx : List Byte
  rxTimer : Timer
  /-- The index of the word being written while programming is in progress. -/
  programming : Option Nat
  programTimer : Timer
  /-- The replies sent on STX since the full reset, oldest first. -/
  replies : List (List Byte)
  deriving DecidableEq, Repr, Inhabited

/-! ## The Line Unit -/

/-- What the LINE terminal does: released, or driving on one of the three occasions of R1. -/
inductive LineDrive where
  | released | notice | breakPulse | holdDown
  deriving DecidableEq, Repr, Inhabited

/-- The receiver (section 1.2). In RECEIVING it holds the characters taken, and whether a start bit has
been confirmed whose character has not ended (R2). -/
inductive Receiver where
  | idle
  | receiving (chars : List Byte) (inChar : Bool)
  | recovering
  deriving DecidableEq, Repr, Inhabited

/-- One entry of the outgoing queue (R15). -/
structure QueueEntry where
  notice : Notice
  failed : Nat
  /-- The pre-emption mark (R13). -/
  mark : Bool
  deriving DecidableEq, Repr, Inhabited

/-- The attempt in flight (R9, R12): the content sent, its characters, and whether the entry has been
replaced since the attempt began (R15). -/
structure Flight where
  content : Notice
  frame : List Byte
  replaced : Bool
  deriving DecidableEq, Repr, Inhabited

/-- The Line Unit (chapter 1). Line times are in units of 1/96000 s: five a bit time, 96 a ms. -/
structure LineUnit where
  drive : LineDrive
  receiver : Receiver
  /-- The span timer of the dominant span in progress: from its edge to the next command that shows the line recessive (log entry
  53). -/
  span : Option Nat
  /-- The span in progress has reached 11 bit times, and has had its effects (R6). -/
  spanLong : Bool
  /-- The recessive count, in RECOVERING, and the idle count, in IDLE: the recessive time of the line as read, whatever the own terminal
  does (R4, R9). -/
  recessive : Nat
  /-- The test of R13 held: a break begins at the next end of a character. -/
  breakArmed : Bool
  /-- The character that has ended last is one at whose end an armed break begins (R13). -/
  breakAtEnd : Bool
  /-- In the order of R15, head first. -/
  queue : List QueueEntry
  flight : Option Flight
  echoRun : Nat
  isolation : Bool
  valid : Nat
  discard : Nat
  dropped : Nat
  /-- The 30 bit times of the break being driven, in units of the line (R13). -/
  breakTimer : Option Nat
  /-- A hold-down pulse is requested and has not begun (R14). -/
  pulseRequested : Bool
  /-- The 600 ms of the pulse being driven. -/
  pulseEndTimer : Timer
  deriving DecidableEq, Repr, Inhabited

/-- The repetition timers and records of section 2.8. -/
structure Schedules where
  fireResend : Timer
  overrideRepeat : Timer
  statusPeriod : Timer
  statusSpacing : Timer
  /-- The last STATUS queued. -/
  lastStatus : Option StatusContent
  weatherPeriod : Timer
  ventilatePeriod : Timer
  /-- The VENTILATE target last queued. -/
  lastVentilate : Option Nat
  healthPeriod : Timer
  deriving DecidableEq, Repr, Inhabited

/-! ## The Peer View -/

/-- The weather report of a peer entry: age in ms, and whether it is still offered (R47). -/
structure HeldReport where
  report : Report
  age : Nat
  offered : Bool
  deriving DecidableEq, Repr, Inhabited

/-- One peer entry (R35): last-heard age in ms, and whether the entry is fresh. -/
structure PeerEntry where
  bay : Nat
  age : Nat
  fresh : Bool
  status : Option StatusContent
  weather : Option HeldReport
  health : Option HealthContent
  deriving DecidableEq, Repr, Inhabited

/-- The Peer View (chapter 3). The map is in ascending order of bay. -/
structure PeerView where
  entries : List PeerEntry
  conflictTimer : Timer
  deriving DecidableEq, Repr, Inhabited

/-! ## The Weather Unit -/

/-- The atrium weather record (R60). -/
structure Atrium where
  w : Nat
  d : Option Nat
  g : Nat
  rain : Bool
  unknown : Bool
  storm : Bool
  stormTimer : Timer
  deriving DecidableEq, Repr, Inhabited

/-- The Weather Unit (chapter 4). Temperatures are in 0.1 °C. -/
structure WeatherUnit where
  gateTimer : Timer
  gateCount : Nat
  /-- The gate ring, oldest first. -/
  ring : List Nat
  rainTimer : Timer
  rainFlag : Bool
  wetRun : Nat
  dryRun : Nat
  heatTimer : Timer
  /-- The heat sample ring, oldest first. -/
  heatRing : List Int
  fixedRun : Nat
  rateRun : Nat
  clearRun : Nat
  heatAlarm : Bool
  /-- The own report; its direction is the last vane direction. -/
  own : Report
  atrium : Atrium
  deriving DecidableEq, Repr, Inhabited

/-! ## The Fire Unit -/

/-- The classes of the fire loop (R71). -/
inductive LoopClass where
  | short | alarm | normal | drift | open
  deriving DecidableEq, Repr, Inhabited

/-- A key switch position (R80, R91). -/
inductive KeyPos where
  | auto | open | close
  deriving DecidableEq, Repr, Inhabited

/-- One origin of the override map (R81): OPEN or CLOSE, and a last-heard age in ms, which the own origin
does not have. -/
structure OverrideOrigin where
  bay : Nat
  opens : Bool
  age : Option Nat
  deriving DecidableEq, Repr, Inhabited

/-- The Fire Unit (chapter 5). -/
structure FireUnit where
  /-- The class of the last reading. -/
  sampleClass : Option LoopClass
  candidate : Option LoopClass
  candidateTimer : Timer
  /-- Nothing: UNSETTLED. -/
  loopClass : Option LoopClass
  contact : Bool
  contactTimer : Timer
  heat : Bool
  /-- The origin sets of zones 1 to 4, each in the order of joining. -/
  origins : Four (List Nat)
  generalTimer : Timer
  pulseTimer : Timer
  keyTaken : KeyPos
  keyCandidate : Option KeyPos
  keyTimer : Timer
  overrides : List OverrideOrigin
  deriving DecidableEq, Repr, Inhabited

/-! ## The Demand Unit -/

/-- One origin of the ventilation map (R95): age in ms. -/
structure VentOrigin where
  bay : Nat
  target : Nat
  age : Nat
  deriving DecidableEq, Repr, Inhabited

/-- The Demand Unit's state of the station (chapter 6). -/
structure DemandUnit where
  keyTaken : KeyPos
  keyCandidate : Option KeyPos
  keyTimer : Timer
  ventMap : List VentOrigin
  /-- The demand of the latest sample of VDEM (R32). -/
  sample : Nat
  deriving DecidableEq, Repr, Inhabited

/-! ## The Budget Unit -/

/-- One item of the start list (R110): arrival age in ms. -/
structure StartItem where
  bay : Nat
  channels : Four Bool
  inrush : Nat
  fire : Bool
  age : Nat
  deriving DecidableEq, Repr, Inhabited

/-- The states of the own claim (section 7.3). -/
inductive ClaimState where
  | none | queued | settling | deferred
  deriving DecidableEq, Repr, Inhabited

/-- The own claim (section 7.3). -/
structure OwnClaim where
  state : ClaimState
  channels : Four Bool
  fire : Bool
  inrush : Nat
  deriving DecidableEq, Repr, Inhabited

/-- The Budget Unit (chapter 7). -/
structure BudgetUnit where
  /-- The start list, oldest first. -/
  items : List StartItem
  own : OwnClaim
  settleTimer : Timer
  /-- The isolated start timer. -/
  isoTimer : Timer
  /-- A start is allowed and has not been made (R127). -/
  isoOpen : Bool
  /-- The milliseconds since the last isolated start. -/
  lastIso : Option Nat
  deriving DecidableEq, Repr, Inhabited

/-- The Limit Unit's state of the station (R153). -/
structure LimitUnit where
  hold : Bool
  holdTimer : Timer
  deriving DecidableEq, Repr, Inhabited

/-! ## Supervision -/

/-- The four station modes. -/
inductive Mode where
  | starting | normal | isolated | service
  deriving DecidableEq, Repr, Inhabited

/-- The five phases of the start-up sequence (R159); after the entry the phase stays there. -/
inductive Phase where
  | load | straps | presence | listen | entry
  deriving DecidableEq, Repr, Inhabited

/-- The presence latch: one result for each channel and for each sensor tested (R161). -/
structure PresenceLatch where
  ch : Four (Option Bool)
  anemo : Option Bool
  vane : Option Bool
  rain : Option Bool
  heat : Option Bool
  deriving DecidableEq, Repr, Inhabited

/-- The five lamp patterns (R168). -/
inductive LampPattern where
  | off | fast | double | slow | steady
  deriving DecidableEq, Repr, Inhabited

/-- The LAMP output: its pattern, the part of the cycle it is in, whether the lamp is on, and the cycle
timer. -/
structure Lamp where
  pattern : LampPattern
  part : Nat
  on : Bool
  timer : Timer
  deriving DecidableEq, Repr, Inhabited

/-- Supervision (chapter 10). -/
structure Supervision where
  mode : Mode
  phase : Phase
  listenTimer : Timer
  bay : Nat
  svcStrap : Bool
  presence : PresenceLatch
  low : Bool
  lowEntry : Timer
  lowRecovery : Timer
  high : Bool
  highEntry : Timer
  highRecovery : Timer
  /-- The fault set, in strictly ascending order of code. -/
  faults : List Nat
  /-- Whether the fault relay is energised. -/
  relay : Bool
  lamp : Lamp
  deriving DecidableEq, Repr, Inhabited

end Sys2Proof.Machine
end

