-- ==== Sys2Proof/Machine/Operands.lean ====
section
/-! DEFINITION. What the characters of a notice mean: the head, the check, the payload of each kind,
both written (R19 to R21) and read with the content test (R22), and the readings of the converter. -/

namespace Sys2Proof.Machine

open Sys2Proof

/-! ## The check (R21) -/

/-- One data bit into the check register: the top bit is compared with it, the register is shifted, and
0x1021 is combined where they differed. -/
def checkBit (r : Word) (bit : Bool) : Word :=
  if r.getMsbD 0 != bit then (r <<< 1) ^^^ 0x1021#16 else r <<< 1

/-- One byte into the check register, most significant bit first. -/
def checkByte (r : Word) (b : Byte) : Word :=
  [0, 1, 2, 3, 4, 5, 6, 7].foldl (fun r i => checkBit r (b.getMsbD i)) r

/-- The check of a sequence of bytes, the register preset to all ones, no final inversion. -/
def check (bytes : List Byte) : Word := bytes.foldl checkByte 0xFFFF#16

/-! ## Head, class and length (R19, R20) -/

/-- The class of a kind. -/
def Kind.noticeClass : Kind → NoticeClass
  | .fire => .alarm
  | .fireClear => .alarm
  | .override => .alarm
  | .claim => .motion
  | .status => .routine
  | .weather => .routine
  | .ventilate => .routine
  | .health => .routine

/-- The kind code of a kind. -/
def Kind.code : Kind → Nat
  | .fire => 8
  | .fireClear => 9
  | .override => 10
  | .claim => 16
  | .status => 20
  | .weather => 21
  | .ventilate => 22
  | .health => 23

/-- The class code: ALARM 0, MOTION 2, ROUTINE 3. -/
def NoticeClass.code : NoticeClass → Nat
  | .alarm => 0
  | .motion => 2
  | .routine => 3

/-- The place of a class in the order of the queue (R15). -/
def NoticeClass.rank : NoticeClass → Nat
  | .alarm => 0
  | .motion => 1
  | .routine => 2

/-- The eight kinds. -/
def Kind.all : List Kind :=
  [.fire, .fireClear, .override, .claim, .status, .weather, .ventilate, .health]

/-- The head character: the class in the two lowest bits, the kind above them. -/
def Kind.head (k : Kind) : Byte := BitVec.ofNat 8 (4 * k.code + k.noticeClass.code)

/-- The kind a head carries; nothing for a head that the table of R19 does not hold. -/
def kindOfHead (b : Byte) : Option Kind := Kind.all.find? (fun k => k.head == b)

/-- Whether a head has class ROUTINE, by its two lowest bits. -/
def routineHead (b : Byte) : Bool := b.toNat % 4 == 3

/-- The declared lengths the table of R20 allows for a kind. -/
def Kind.lengthAllowed (k : Kind) (n : Nat) : Bool :=
  match k with
  | .fire => n == 2
  | .fireClear => n == 1
  | .override => n == 1
  | .claim => n == 4
  | .status => n == 4 || n == 7 || n == 10 || n == 13 || n == 16
  | .weather => decide (1 ≤ n) && decide (n ≤ 8)
  | .ventilate => n == 3
  | .health => decide (8 ≤ n) && decide (n ≤ 24)

/-- The kind of a notice. -/
def Notice.kind : Notice → Kind
  | .fire _ _ _ => .fire
  | .fireClear _ => .fireClear
  | .override _ => .override
  | .claim _ _ _ => .claim
  | .status _ => .status
  | .weather _ => .weather
  | .ventilate _ _ => .ventilate
  | .health _ => .health

/-- The class of a notice. -/
def Notice.noticeClass (n : Notice) : NoticeClass := n.kind.noticeClass

/-- The key of a notice (R15): its kind, together with the zone for FIRE and FIRE CLEAR. -/
def Notice.key : Notice → Kind × Option Zone
  | .fire z _ _ => (.fire, some z)
  | .fireClear z => (.fireClear, some z)
  | n => (n.kind, none)

/-! ## Writing a payload (R20) -/

/-- The four flags as bits 0 to 3 of a character. -/
def bits4 (f : Four Bool) : Nat := f.one.toNat + 2 * f.two.toNat + 4 * f.three.toNat + 8 * f.four.toNat

/-- Bits 0 to 3 as four flags. -/
def ofBits4 (n : Nat) : Four Bool := ⟨n.testBit 0, n.testBit 1, n.testBit 2, n.testBit 3⟩

/-- One character carrying a number of at most 255. -/
def char (n : Nat) : Byte := BitVec.ofNat 8 n

/-- The STATUS code of a channel state (R129), 0 for ABSENT (R174). -/
def ChState.code : ChState → Nat
  | .absent => 0
  | .unreferenced => 1
  | .idle => 2
  | .waiting => 3
  | .running => 4
  | .reversing => 5
  | .referencing => 6
  | .faulted => 7

/-- The channel state of a STATUS code. -/
def stateOfCode : Nat → Option ChState
  | 1 => some .unreferenced
  | 2 => some .idle
  | 3 => some .waiting
  | 4 => some .running
  | 5 => some .reversing
  | 6 => some .referencing
  | 7 => some .faulted
  | _ => none

/-- The code of a winning source, 0 for none. -/
def sourceCode : Option Source → Nat
  | none => 0
  | some .override => 1
  | some .fire => 2
  | some .weather => 3
  | some .localKey => 4
  | some .ventilate => 5
  | some .jog => 6

/-- The winning source of a code. -/
def sourceOfCode : Nat → Option (Option Source)
  | 0 => some none
  | 1 => some (some .override)
  | 2 => some (some .fire)
  | 3 => some (some .weather)
  | 4 => some (some .localKey)
  | 5 => some (some .ventilate)
  | 6 => some (some .jog)
  | _ => none

/-- The code of a mode: NORMAL 1, ISOLATED 2, SERVICE 3. -/
def RunMode.code : RunMode → Nat
  | .normal => 1
  | .isolated => 2
  | .service => 3

/-- The mode of a code. -/
def modeOfCode : Nat → Option RunMode
  | 1 => some .normal
  | 2 => some .isolated
  | 3 => some .service
  | _ => none

/-- The code of a key state: RELEASED 0, OPEN 1, CLOSE 2. -/
def KeyState.code : KeyState → Nat
  | .released => 0
  | .open => 1
  | .close => 2

/-- The key state of a code. -/
def keyOfCode : Nat → Option KeyState
  | 0 => some .released
  | 1 => some .open
  | 2 => some .close
  | _ => none

/-- The code of a load outcome: CLEAN 0, CORRECTED 1, LOST 2. -/
def LoadOutcome.code : LoadOutcome → Nat
  | .clean => 0
  | .corrected => 1
  | .lost => 2

/-- The load outcome of a code. -/
def outcomeOfCode : Nat → Option LoadOutcome
  | 0 => some .clean
  | 1 => some .corrected
  | 2 => some .lost
  | _ => none

/-- One channel record: state and source in the first character, then the position. -/
def ChanRecord.bytes (r : ChanRecord) : List Byte :=
  char (r.state.code + 16 * sourceCode r.source) :: natBytes r.position

/-- The payload of a STATUS notice. -/
def StatusContent.bytes (c : StatusContent) : List Byte :=
  char (c.mode.code + 16 * c.zone.number) :: char (bits4 c.fireZones + 16 * c.general.toNat) ::
    (natBytes c.current ++ c.channels.flatMap ChanRecord.bytes)

/-- A field of two characters where it is present. -/
def optBytes : Option Nat → List Byte
  | none => []
  | some n => natBytes n

/-- The payload of a WEATHER notice: the presence flags, then the present fields. -/
def Report.bytes (r : Report) : List Byte :=
  char (bits4 ⟨r.mean.isSome, r.gust.isSome, r.direction.isSome, r.rain.isSome⟩) ::
    (optBytes r.mean ++ optBytes r.gust ++ optBytes r.direction ++
      (match r.rain with
       | none => []
       | some wet => [char wet.toNat]))

/-- The payload of a HEALTH notice. -/
def HealthContent.bytes (h : HealthContent) : List Byte :=
  natBytes h.valid ++ [char h.discard, char h.dropped] ++ [h.signature.hi, h.signature.lo] ++
    [char (64 * h.outcome.code + h.lastCorrected), char h.codes.length] ++ h.codes.map char

/-- The payload of a notice. -/
def Notice.payload : Notice → List Byte
  | .fire z contact heat => [char z.number, char (contact.toNat + 2 * heat.toNat)]
  | .fireClear z => [char z.number]
  | .override k => [char k.code]
  | .claim set inrush f => char (bits4 set) :: (natBytes inrush ++ [char f.toNat])
  | .status c => c.bytes
  | .weather r => r.bytes
  | .ventilate zones t => char (bits4 zones) :: natBytes t
  | .health h => h.bytes

/-- All characters of a notice as a bay sends it: head, bay, length, payload, check (R3). -/
def Notice.frame (bay : Nat) (n : Notice) : List Byte :=
  let body := n.kind.head :: char bay :: char n.payload.length :: n.payload
  body ++ [(check body).hi, (check body).lo]

/-! ## Reading a payload: the content test (R22) -/

/-- The channel records of a STATUS payload, three characters each. -/
def parseRecords : List Byte → Option (List ChanRecord)
  | [] => some []
  | a :: b :: c :: rest =>
    if a.toNat / 128 == 1 then none else
    match stateOfCode (a.toNat % 16), sourceOfCode (a.toNat / 16 % 8), parseRecords rest with
    | some st, some src, some more =>
      if natOfBytes b c ≤ 1000 then some (⟨st, src, natOfBytes b c⟩ :: more) else none
    | _, _, _ => none
  | _ => none

/-- A field of two characters, taken where its flag is set and tested against its largest value. -/
def takeField (present : Bool) (most : Nat) (l : List Byte) : Option (Option Nat × List Byte) :=
  if present then
    match l with
    | a :: b :: rest => if natOfBytes a b ≤ most then some (some (natOfBytes a b), rest) else none
    | _ => none
  else some (none, l)

/-- The rain field and the end of a WEATHER payload. -/
def takeRain (present : Bool) (l : List Byte) : Option (Option Bool) :=
  match present, l with
  | false, [] => some none
  | true, [a] => if a.toNat = 0 then some (some false) else if a.toNat = 1 then some (some true) else none
  | _, _ => none

/-- A WEATHER payload after its flags. -/
def parseReport (flags : Nat) (l : List Byte) : Option Report :=
  if flags ≥ 16 then none else
  match takeField (flags.testBit 0) 600 l with
  | none => none
  | some (mean, l1) =>
    match takeField (flags.testBit 1) 600 l1 with
    | none => none
    | some (gust, l2) =>
      match takeField (flags.testBit 2) 359 l2 with
      | none => none
      | some (direction, l3) =>
        match takeRain (flags.testBit 3) l3 with
        | none => none
        | some rain => some ⟨mean, gust, direction, rain⟩

/-- Whether codes are strictly ascending, the first above the one given. -/
def ascendingFrom (least : Nat) : List Nat → Bool
  | [] => true
  | a :: rest => decide (least < a) && ascendingFrom a rest

/-- The notice that a payload of a kind carries; nothing where the content test of R22 fails. -/
def parseNotice (k : Kind) (p : List Byte) : Option Notice :=
  match k, p with
  | .fire, [z, c] =>
    match Quad.ofNumber z.toNat with
    | some z => if 1 ≤ c.toNat ∧ c.toNat ≤ 3 then some (.fire z (c.toNat.testBit 0) (c.toNat.testBit 1)) else none
    | none => none
  | .fireClear, [z] => (Quad.ofNumber z.toNat).map .fireClear
  | .override, [s] => (keyOfCode s.toNat).map .override
  | .claim, [set, hi, lo, f] =>
    if 1 ≤ set.toNat ∧ set.toNat ≤ 15 ∧ f.toNat ≤ 1 then
      some (.claim (ofBits4 set.toNat) (natOfBytes hi lo) (f.toNat == 1))
    else none
  | .status, m :: v :: hi :: lo :: rest =>
    match modeOfCode (m.toNat % 16), Quad.ofNumber (m.toNat / 16), parseRecords rest with
    | some mode, some zone, some records =>
      if v.toNat ≤ 31 then
        some (.status ⟨mode, zone, ofBits4 (v.toNat % 16), v.toNat / 16 == 1, natOfBytes hi lo, records⟩)
      else none
    | _, _, _ => none
  | .weather, flags :: rest => (parseReport flags.toNat rest).map .weather
  | .ventilate, [set, hi, lo] =>
    if 1 ≤ set.toNat ∧ set.toNat ≤ 15 ∧ natOfBytes hi lo ≤ 1000 then
      some (.ventilate (ofBits4 set.toNat) (natOfBytes hi lo))
    else none
  | .health, v1 :: v0 :: di :: dr :: s1 :: s0 :: ls :: kk :: codes =>
    match outcomeOfCode (ls.toNat / 64) with
    | some o =>
      if kk.toNat = codes.length ∧ ascendingFrom 0 (codes.map BitVec.toNat) = true then
        some (.health ⟨natOfBytes v1 v0, di.toNat, dr.toNat, Word.ofBytes s1 s0, o, ls.toNat % 64,
          codes.map BitVec.toNat⟩)
      else none
    | none => none
  | _, _ => none

/-! ## A notice as characters (R3, R4) -/

/-- The declared length, once the length character has been taken. -/
def declaredLength : List Byte → Option Nat
  | _ :: _ :: n :: _ => some n.toNat
  | _ => none

/-- Whether the characters taken make a whole notice: 5 and the declared length. -/
def noticeComplete (chars : List Byte) : Bool :=
  match declaredLength chars with
  | some n => chars.length == n + 5
  | none => false

/-- The characters still to come: 5 and the declared length, less those already ended (R13). -/
def charsToCome (chars : List Byte) : Nat :=
  match declaredLength chars with
  | some n => n + 5 - chars.length
  | none => 0

/-- The tests of R4 that apply at the end of the character just taken: UNKNOWN KIND, BAY, LENGTH. -/
def charsAccepted (chars : List Byte) : Bool :=
  match chars with
  | [h] => (kindOfHead h).isSome
  | [_, b] => decide (1 ≤ b.toNat) && decide (b.toNat ≤ 32)
  | [h, _, n] =>
    match kindOfHead h with
    | some k => decide (n.toNat ≤ 24) && k.lengthAllowed n.toNat
    | none => false
  | _ => true

/-- Whether the two check characters of a whole notice agree with the check of the others. -/
def checkAgrees (chars : List Byte) : Bool :=
  let body := chars.take (chars.length - 2)
  chars.drop (chars.length - 2) == [(check body).hi, (check body).lo]

/-- The bay character of a whole notice. -/
def noticeBay : List Byte → Nat
  | _ :: b :: _ => b.toNat
  | _ => 0

/-- The content of a whole notice, where it passes the content test. -/
def noticeContent (chars : List Byte) : Option Notice :=
  match chars with
  | h :: _ :: n :: rest =>
    match kindOfHead h with
    | some k => parseNotice k (rest.take n.toNat)
    | none => none
  | _ => none

/-! ## Readings -/

/-- The sample class of a LOOP reading (R71). -/
def loopClassOf (raw : Raw) : LoopClass :=
  if raw.toNat ≤ 102 then .short
  else if raw.toNat ≤ 409 then .alarm
  else if raw.toNat ≤ 716 then .normal
  else if raw.toNat ≤ 869 then .drift
  else .open

/-- The reading of the firefighter key: both contacts closed count as OPEN (R80). -/
def fkeyPos (openClosed closeClosed : Bool) : KeyPos :=
  if openClosed then .open else if closeClosed then .close else .auto

/-- The reading of the local key: both contacts closed count as AUTO (R91). -/
def lkeyPos (openClosed closeClosed : Bool) : KeyPos :=
  match openClosed, closeClosed with
  | true, false => .open
  | false, true => .close
  | _, _ => .auto

/-- The demand of a VDEM reading (R32). -/
def demandOf (raw : Raw) : Nat := raw.toNat * 1000 / 1023

/-- Whether a reading of the vane is in range (R52). -/
def vaneInRange (raw : Raw) : Bool := decide (3 ≤ raw.toNat) && decide (raw.toNat ≤ 1020)

/-- Whether a reading of the rain plate or the heat detector is in range (R53, R56). -/
def plateInRange (raw : Raw) : Bool := decide (4 ≤ raw.toNat) && decide (raw.toNat ≤ 1019)

/-- The direction of an in-range vane reading (R52). -/
def vaneDirection (northOffset : Nat) (raw : Raw) : Nat := (raw.toNat * 360 / 1024 + northOffset) % 360

/-- The gate speed of a count of pulses (R50). -/
def gateSpeed (k pulses : Nat) : Nat := min 600 (pulses * k / 100)

/-- The temperature of an in-range heat reading, in 0.1 °C, clamped to −400..1500 (R56). -/
def temperature (cal sHeat : Nat) (raw : Raw) : Int :=
  let t : Int := 250 + Int.tdiv (((raw.toNat : Int) - cal) * 100) sHeat
  max (-400) (min 1500 t)

end Sys2Proof.Machine
end

