-- ==== Sys2Proof/Machine/Settings.lean ====
section
/-! DEFINITION. The configuration: decoding a store word, the fields of the loaded image, the built-in
defaults, the clamps, and the load (R170 to R173). -/

namespace Sys2Proof.Machine

open Sys2Proof

/-! ## The store (R170) -/

/-- How many of the 22 bits of a stored word are wrong. -/
def wrongBits (w : BitVec 22) : Nat := (List.range 22).countP (fun i => w.getLsbD i)

/-- Decoding one stored word: any single wrong bit is corrected, any two are detected and leave the data
bits as read (R170, R171). -/
def StoreWord.decode (w : StoreWord) : Word × DecodeStatus :=
  match wrongBits w.wrong with
  | 0 => (w.written, .clean)
  | 1 => (w.written, .corrected)
  | 2 => (w.written ^^^ w.wrong.extractLsb' 0 16, .uncorrectable)
  | _ => Config.manyErrors w.written w.wrong

/-- A word written with freshly computed check bits. -/
def StoreWord.fresh (d : Word) : StoreWord := ⟨d, 0#22⟩

/-- The word being written when programming is cut short: it decodes as uncorrectable, its data bits are
a free value (R177). -/
def StoreWord.torn (n : Nat) : StoreWord := ⟨Config.tornData n, 0x300000#22⟩

/-- The form of the store: words 0 to 63. -/
def storeWf (store : List StoreWord) : Bool := store.length == 64

/-- One word of the store. -/
def readStore (store : List StoreWord) (i : Nat) : StoreWord := store.getD i (StoreWord.fresh 0#16)

/-- The store with one word replaced. -/
def writeStore (store : List StoreWord) (i : Nat) (w : StoreWord) : List StoreWord := store.set i w

/-- The signature of an image: the check of words 0 to 62, each high byte first (R170). -/
def signature (image : List Word) : Word :=
  check ((image.take 63).flatMap (fun w => [w.hi, w.lo]))

/-- One word of an image. -/
def imageWord (image : List Word) (i : Nat) : Word := image.getD i 0#16

/-! ## Fields of the words (R170) -/

/-- The bits of a word from a lowest place upward, as a number. -/
def bitField (w : Word) (low width : Nat) : Nat := w.toNat / 2 ^ low % 2 ^ width

/-- The action of two bits: NONE 0, OPEN 1, CLOSE 2, FREEZE 3. -/
def actionOfBits : Nat → FireAction
  | 0 => .none
  | 1 => .open
  | 2 => .close
  | _ => .freeze

/-- One column of the response table from its byte, CH1 in bits 1 and 0. -/
def columnOf (b : Nat) : Four FireAction :=
  ⟨actionOfBits (b % 4), actionOfBits (b / 4 % 4), actionOfBits (b / 16 % 4), actionOfBits (b / 64 % 4)⟩

/-- The rain scan period in ms. -/
def periodOfBits : Nat → Nat
  | 0 => 250
  | 1 => 500
  | 2 => 1000
  | _ => 2000

/-- The fields of one channel, CH1 at index 0, as the words hold them. -/
def channelFieldsOf (image : List Word) (i : Nat) : ChannelFields where
  fitted := (imageWord image 0).getLsbD (7 + i)
  facing := (imageWord image (1 + i)).toNat
  stroke := some (imageWord image (5 + i)).toNat
  inrush := (imageWord image (9 + i)).toNat
  run := (imageWord image (13 + i)).toNat
  stall := (imageWord image (17 + i)).toNat

/-- The fields as the decoded words hold them, before any clamp. -/
def decodedFields (image : List Word) (cal : Nat) : Fields where
  zone := bitField (imageWord image 0) 0 3
  ventZones := bitField (imageWord image 0) 3 4
  ch := ⟨channelFieldsOf image 0, channelFieldsOf image 1, channelFieldsOf image 2, channelFieldsOf image 3⟩
  anemoFitted := (imageWord image 0).getLsbD 11
  vaneFitted := (imageWord image 0).getLsbD 12
  rainFitted := (imageWord image 0).getLsbD 13
  heatFitted := (imageWord image 0).getLsbD 14
  demandFitted := (imageWord image 0).getLsbD 15
  response := ⟨columnOf (bitField (imageWord image 21) 0 8), columnOf (bitField (imageWord image 21) 8 8),
    columnOf (bitField (imageWord image 22) 0 8), columnOf (bitField (imageWord image 22) 8 8)⟩
  responseGeneral := columnOf (bitField (imageWord image 23) 0 8)
  aStart := (imageWord image 24).toNat
  aFire := (imageWord image 25).toNat
  aRun := (imageWord image 26).toNat
  k := (imageWord image 27).toNat
  northOffset := (imageWord image 28).toNat
  rainThreshold := (imageWord image 29).toNat
  rainPeriod := periodOfBits (bitField (imageWord image 30) 0 2)
  rainHold := bitField (imageWord image 30) 2 14
  cal := cal
  sHeat := (imageWord image 31).toNat
  th := (imageWord image 32).toNat
  rr := (imageWord image 33).toNat
  wvLo := (imageWord image 34).toNat
  wvHi := (imageWord image 35).toNat
  wStorm := (imageWord image 36).toNat
  wf := (imageWord image 37).toNat
  wHys := (imageWord image 38).toNat
  dutyWindow := (imageWord image 39).toNat
  duty := bitField (imageWord image 40) 0 8
  throttleFactor := bitField (imageWord image 40) 8 4

/-! ## Defaults and clamps (R109, R172, R173) -/

/-- A value brought to the nearest end of its range. -/
def clamp (low high n : Nat) : Nat := max low (min high n)

/-- The range clamps of one channel. -/
def ChannelFields.rangeClamp (f : ChannelFields) : ChannelFields :=
  { f with
    facing := clamp 0 359 f.facing
    stroke := f.stroke.map (clamp 100 60000)
    inrush := clamp 1 600 f.inrush
    run := clamp 1 300 f.run
    stall := clamp 1 300 f.stall }

/-- Each field brought into its range (R173). -/
def Fields.rangeClamp (f : Fields) : Fields :=
  { f with
    zone := clamp 1 4 f.zone
    ventZones := clamp 1 15 f.ventZones
    ch := ⟨f.ch.one.rangeClamp, f.ch.two.rangeClamp, f.ch.three.rangeClamp, f.ch.four.rangeClamp⟩
    aStart := clamp 1 2000 f.aStart
    aFire := clamp 1 4000 f.aFire
    aRun := clamp 1 4000 f.aRun
    k := clamp 1 10000 f.k
    northOffset := clamp 0 359 f.northOffset
    rainThreshold := clamp 4 1019 f.rainThreshold
    rainHold := clamp 1 60 f.rainHold
    cal := clamp 0 1023 f.cal
    sHeat := clamp 10 500 f.sHeat
    th := clamp 400 1200 f.th
    rr := clamp 20 300 f.rr
    wvLo := clamp 0 599 f.wvLo
    wvHi := clamp 1 600 f.wvHi
    wStorm := clamp 1 600 f.wStorm
    wf := clamp 1 600 f.wf
    wHys := clamp 0 600 f.wHys
    dutyWindow := clamp 60 3600 f.dutyWindow
    duty := clamp 5 100 f.duty
    throttleFactor := clamp 1 15 f.throttleFactor }

/-- The largest of the four inrush ratings. -/
def Fields.maxInrush (f : Fields) : Nat :=
  max (max f.ch.one.inrush f.ch.two.inrush) (max f.ch.three.inrush f.ch.four.inrush)

/-- The largest of the four run ratings. -/
def Fields.maxRun (f : Fields) : Nat :=
  max (max f.ch.one.run f.ch.two.run) (max f.ch.three.run f.ch.four.run)

/-- The three budget clamps, in their order (R109). -/
def Fields.budgetClamp (f : Fields) : Fields :=
  let f1 := { f with aStart := max f.aStart f.maxInrush }
  let f2 := { f1 with aRun := max f1.aRun f1.maxRun }
  { f2 with aFire := max f2.aFire f2.aStart }

/-- The cross-field clamps and the budget clamps, in their order (R173). -/
def Fields.crossClamp (f : Fields) : Fields :=
  let f1 := { f with wvHi := max f.wvHi (f.wvLo + 1) }
  let f2 := { f1 with wHys := min f1.wHys f1.wf }
  f2.budgetClamp

/-- The clamped fields. -/
def Fields.clamped (f : Fields) : Fields := f.rangeClamp.crossClamp

/-- The built-in defaults of one channel. -/
def ChannelFields.builtIn : ChannelFields where
  fitted := false
  facing := 0
  stroke := none
  inrush := 40
  run := 15
  stall := 30

/-- The built-in defaults, with the CAL of the factory row (R172). -/
def Fields.builtIn (cal : Nat) : Fields where
  zone := 1
  ventZones := 1
  ch := Four.all ChannelFields.builtIn
  anemoFitted := false
  vaneFitted := false
  rainFitted := false
  heatFitted := false
  demandFitted := false
  response := Four.all (Four.all .open)
  responseGeneral := Four.all .open
  aStart := 80
  aFire := 160
  aRun := 200
  k := 250
  northOffset := 0
  rainThreshold := 512
  rainPeriod := 1000
  rainHold := 10
  cal := cal
  sHeat := 52
  th := 680
  rr := 80
  wvLo := 60
  wvHi := 120
  wStorm := 150
  wf := 50
  wHys := 10
  dutyWindow := 600
  duty := 30
  throttleFactor := 2

/-! ## The load (R171) -/

/-- What the load finds. -/
structure LoadResult where
  image : List Word
  outcome : LoadOutcome
  lastCorrected : Nat
  fields : Fields
  /-- CONFIG_CORRECTED, CONFIG_LOST, CONFIG_CLAMPED. -/
  corrected : Bool
  lost : Bool
  clamped : Bool
  deriving DecidableEq, Repr

/-- The highest index whose word was corrected, 0 where none was. -/
def lastCorrectedIndex (decoded : List (Word × DecodeStatus)) : Nat :=
  (decoded.zipIdx).foldl (fun last e => if e.1.2 = .corrected then e.2 else last) 0

/-- CAL of the factory row as decoded, whether the row was corrected, and whether CAL was replaced (R171). Its range is a field's, and
its clamp one of R173's, which the outcome LOST leaves out (R172, log entry 16). -/
def loadCal (factory : StoreWord) : Nat × Bool × Bool :=
  match factory.decode with
  | (_, .uncorrectable) => (512, false, true)
  | (d, st) => (d.toNat, decide (st = .corrected), false)

/-- The load, from the store and the factory row (R171). -/
def load (store : List StoreWord) (factory : StoreWord) : LoadResult :=
  let decoded := store.map StoreWord.decode
  let image := decoded.map Prod.fst
  let cal := loadCal factory
  let anyCorrected := decoded.any (fun e => decide (e.2 = .corrected))
  let lost := decoded.any (fun e => decide (e.2 = .uncorrectable)) || signature image != imageWord image 63
  let raw := decodedFields image cal.1
  { image := image
    outcome := if lost then .lost else if anyCorrected then .corrected else .clean
    lastCorrected := lastCorrectedIndex decoded
    fields := if lost then Fields.builtIn cal.1 else raw.clamped
    corrected := anyCorrected || cal.2.1
    lost := lost
    clamped := cal.2.2 || (!lost && decide (raw.clamped ≠ raw)) }

end Sys2Proof.Machine
end

