-- ==== Sys2Proof/Machine/Reset.lean ====
section
/-! DEFINITION. The value of each block after a full reset (R18, R34, R48, R70, R89, R108, R128, R147,
R157, R169, R178). -/

namespace Sys2Proof.Machine

open Sys2Proof

/-- The Line Unit (R18): a line found dominant is measured from the reset instant. -/
def LineUnit.afterReset (lineDominant : Bool) : LineUnit where
  drive := .released
  receiver := .recovering
  span := if lineDominant then some 0 else none
  spanLong := false
  recessive := 0
  breakArmed := false
  breakAtEnd := false
  queue := []
  flight := none
  echoRun := 0
  isolation := false
  valid := 0
  discard := 0
  dropped := 0
  breakTimer := none
  pulseRequested := false
  pulseEndTimer := none

/-- The schedules (R34). -/
def Schedules.afterReset : Schedules where
  fireResend := none
  overrideRepeat := none
  statusPeriod := none
  statusSpacing := none
  lastStatus := none
  weatherPeriod := none
  ventilatePeriod := none
  lastVentilate := none
  healthPeriod := none

/-- The Peer View (R48). -/
def PeerView.afterReset : PeerView where
  entries := []
  conflictTimer := none

/-- A report with no fields. -/
def Report.empty : Report := ⟨none, none, none, none⟩

/-- The atrium weather record (R70). -/
def Atrium.afterReset : Atrium where
  w := 0
  d := none
  g := 0
  rain := false
  unknown := true
  storm := true
  stormTimer := none

/-- The Weather Unit (R70). -/
def WeatherUnit.afterReset : WeatherUnit where
  gateTimer := none
  gateCount := 0
  ring := []
  rainTimer := none
  rainFlag := false
  wetRun := 0
  dryRun := 0
  heatTimer := none
  heatRing := []
  fixedRun := 0
  rateRun := 0
  clearRun := 0
  heatAlarm := false
  own := Report.empty
  atrium := Atrium.afterReset

/-- The Fire Unit (R89). -/
def FireUnit.afterReset : FireUnit where
  sampleClass := none
  candidate := none
  candidateTimer := none
  loopClass := none
  contact := false
  contactTimer := none
  heat := false
  origins := Four.all []
  generalTimer := none
  pulseTimer := none
  keyTaken := .auto
  keyCandidate := none
  keyTimer := none
  overrides := []

/-- The Demand Unit (R108). -/
def DemandUnit.afterReset : DemandUnit where
  keyTaken := .auto
  keyCandidate := none
  keyTimer := none
  ventMap := []
  sample := 0

/-- No live claim. -/
def OwnClaim.none : OwnClaim := ⟨.none, Four.all false, false, 0⟩

/-- The Budget Unit (R128). -/
def BudgetUnit.afterReset : BudgetUnit where
  items := []
  own := OwnClaim.none
  settleTimer := none
  isoTimer := none
  isoOpen := false
  lastIso := none

/-- The Limit Unit (R157). -/
def LimitUnit.afterReset : LimitUnit := ⟨false, none⟩

/-- The source set: WEATHER present, the others absent (R108). -/
def Sources.afterReset : Sources := ⟨none, none, true, none, none⟩

/-- The Demand Unit's state of a channel (R108): WEATHER wins with target 0. -/
def ChDemand.afterReset : ChDemand where
  win := some (.weather, .pos 0)
  movement := none
  pending := none
  refDue := false
  moveCount := 0
  refTimer := none
  standing := none

/-- The Drive Unit's state of a channel (R147). The table of R147 gives no value for the direction last driven: it is none (log entry 62,
the model's choice). -/
def ChDrive.afterReset : ChDrive where
  dir := none
  lastDir := none
  count := 0
  referenced := false
  restEnd := none
  coast := none
  inrushMask := none
  stallTimer := none
  overcurrentTimer := none
  openLoadTimer := none
  noPulseTimer := none
  reportTimer := none
  current := none
  retryCount := 0
  retryTimer := none
  retryHeld := false
  reversalTimer := none
  jog := none

/-- The Limit Unit's state of a channel (R157). -/
def ChLimit.afterReset : ChLimit := ⟨none, 0, 0, false, none, false⟩

/-- One channel after a full reset: UNREFERENCED until presence detection finds it ABSENT (R108, R147). -/
def Channel.afterReset : Channel where
  state := .unreferenced
  src := Sources.afterReset
  dem := ChDemand.afterReset
  drv := ChDrive.afterReset
  lim := ChLimit.afterReset
  fire := ⟨.none, none⟩
  wind := ⟨0, 0, false⟩

/-- An ABSENT channel: no source, no movement, no count and no timer (R129, section 6). -/
def Channel.absent : Channel where
  state := .absent
  src := ⟨none, none, false, none, none⟩
  dem := { ChDemand.afterReset with win := none }
  drv := ChDrive.afterReset
  lim := ChLimit.afterReset
  fire := ⟨.none, none⟩
  wind := ⟨0, 0, false⟩

/-- The service port (R178). -/
def Service.afterReset : Service where
  staging := []
  rx := []
  rxTimer := none
  programming := none
  programTimer := none
  replies := []

/-- The presence latch before any test (R169). -/
def PresenceLatch.empty : PresenceLatch := ⟨Four.all none, none, none, none, none⟩

/-- The lamp, off. -/
def Lamp.afterReset : Lamp := ⟨.off, 0, false, none⟩

/-- Supervision (R169) with the straps read (R159), and the codes of the load in the fault set beside
WEATHER_UNKNOWN (R166). The load and the straps are read inside the full reset, so the presence phase
has begun (log entry 9). -/
def Supervision.afterReset (bay : Nat) (svc corrected lost clamped : Bool) : Supervision where
  mode := .starting
  phase := .presence
  listenTimer := none
  bay := bay
  svcStrap := svc
  presence := PresenceLatch.empty
  low := false
  lowEntry := none
  lowRecovery := none
  high := false
  highEntry := none
  highRecovery := none
  faults := [10] ++ (if corrected then [11] else []) ++ (if lost then [12] else []) ++
    (if clamped then [13] else [])
  relay := false
  lamp := Lamp.afterReset

/-- A store whose 64 words all hold 0: what State.reset takes for a store that no one has commissioned
(log entry 7). -/
def blankStore : List StoreWord := List.replicate 64 (StoreWord.fresh 0#16)

/-- The factory row that State.reset takes: CAL 512 (log entry 7). -/
def blankFactory : StoreWord := StoreWord.fresh 512#16

/-- The Configuration Store after the load of the blank store: the signature of 63 zero words is not 0, so
the outcome is LOST (R171); test_reset_is_full_reset_of_blank shows that the load gives this. -/
def ConfigStore.blank : ConfigStore where
  store := blankStore
  factory := blankFactory
  image := List.replicate 64 0#16
  outcome := .lost
  lastCorrected := 0
  fields := Fields.builtIn 512

end Sys2Proof.Machine
end

