-- ==== Sys2Proof/Machine/State.lean ====
section
/-! DEFINITION. The state of the part, as plain data: every block of the spec, and the queue of the
commands that wait. -/

namespace Sys2Proof.Machine

open Sys2Proof

/-- The state of one VG4 station. -/
structure State where
  /-- The commands that wait, first in first out; the host's queue, not the spec's. -/
  pending : List Instr
  /-- How many free values have been drawn (log entry 5); the model's own, not the spec's. -/
  free : Nat
  cfg : ConfigStore
  svc : Service
  sup : Supervision
  line : LineUnit
  sched : Schedules
  peer : PeerView
  wx : WeatherUnit
  fire : FireUnit
  dem : DemandUnit
  bud : BudgetUnit
  lim : LimitUnit
  ch : Four Channel
  deriving DecidableEq, Repr

/-- Why a command stops the part: it has no reason to. The part has no stop of its own: the service port
refuses a request with a code that it sends as a reply, and every other input is clamped or degraded
(section 11.3), so every command ends in a next state. -/
inductive Fault where
  deriving DecidableEq, Repr

/-- Why a command has no meaning. -/
inductive Refusal where
  /-- Raised by exec for a command without a meaning; safe. No arm raises it. -/
  | notModelled (mnemonic : String)
  deriving DecidableEq, Repr

/-- The part right after a full reset, every block at the value its chapter states. The spec leaves to the
installation what the store, the straps and the line hold then; here the store is blank, so that the
built-in defaults stand, the bay is 1, the service strap is clear and the line is recessive (log entry 7). -/
def State.reset : State where
  pending := []
  free := 0
  cfg := ConfigStore.blank
  svc := Service.afterReset
  sup := Supervision.afterReset 1 false false true false
  line := LineUnit.afterReset false
  sched := Schedules.afterReset
  peer := PeerView.afterReset
  wx := WeatherUnit.afterReset
  fire := FireUnit.afterReset
  dem := DemandUnit.afterReset
  bud := BudgetUnit.afterReset
  lim := LimitUnit.afterReset
  ch := Four.all Channel.afterReset

end Sys2Proof.Machine
end

