-- ==== Sys2Proof/Machine/Ops.lean ====
section
/-! DEFINITION. The named operations over the state that the units share: the channels, the fault set, the
running current, and the outgoing queue. -/

namespace Sys2Proof.Machine

open Sys2Proof

/-! ## Reading -/

/-- One channel. -/
def State.chan (s : State) (c : Chan) : Channel := s.ch.get c

/-- The field values of the loaded image. -/
def State.fields (s : State) : Fields := s.cfg.fields

/-- The field values of one channel. -/
def State.chFields (s : State) (c : Chan) : ChannelFields := s.fields.ch.get c

/-- The own zone: the station's configured zone. -/
def State.zone (s : State) : Zone := (Quad.ofNumber s.fields.zone).getD .one

/-- The own bay (R159). -/
def State.bay (s : State) : Nat := s.sup.bay

/-- Presence detection has ended: scans, readings, timers and monitors run (R159, R161). -/
def State.detected (s : State) : Bool :=
  match s.sup.phase with
  | .listen => true
  | .entry => true
  | _ => false

/-- The supply veto stands while SUPPLY_LOW, SUPPLY_HIGH or both stand (R165). -/
def State.supplyVeto (s : State) : Bool := s.sup.low || s.sup.high

/-- The station is in STARTING mode. -/
def State.starting (s : State) : Bool := decide (s.sup.mode = .starting)

/-- The local fire stands while CONTACT, HEAT or both stand (R74). -/
def State.localFire (s : State) : Bool := s.fire.contact || s.fire.heat

/-- A station is a sensor station when the anemometer, the vane or the rain plate is marked fitted (R49). -/
def State.sensorStation (s : State) : Bool :=
  s.fields.anemoFitted || s.fields.vaneFitted || s.fields.rainFitted

/-- The stroke of a channel is known (section 8.1). -/
def State.strokeKnown (s : State) (c : Chan) : Bool := (s.chFields c).stroke.isSome

/-- The stroke S of a channel; 60000 while it is unknown (R131). -/
def State.stroke (s : State) (c : Chan) : Nat := (s.chFields c).stroke.getD 60000

/-- The position of a channel, floor(count × 1000 / S) (R131). -/
def State.position (s : State) (c : Chan) : Nat := (s.chan c).drv.count * 1000 / s.stroke c

/-- A channel's motor is driven while it is in RUNNING or REFERENCING (R129). -/
def Channel.driven (k : Channel) : Bool :=
  match k.state with
  | .running => true
  | .referencing => true
  | _ => false

/-- A channel is in one of its two rest states (R129). -/
def Channel.atRest (k : Channel) : Bool :=
  match k.state with
  | .unreferenced => true
  | .idle => true
  | _ => false

/-- The rest state of a channel: IDLE while its referenced flag is set, else UNREFERENCED (R129). -/
def Channel.restState (k : Channel) : ChState := if k.drv.referenced then .idle else .unreferenced

/-- The channels in a state. -/
def State.chansIn (s : State) (st : ChState) : List Chan :=
  Quad.all.filter (fun c => decide ((s.chan c).state = st))

/-- floor(t × S / 1000), the lower stop point of a target (R130). -/
def lowerStop (stroke t : Nat) : Nat := t * stroke / 1000

/-- ceil(t × S / 1000), the upper stop point of a target (R130). -/
def upperStop (stroke t : Nat) : Nat := (t * stroke + 999) / 1000

/-- The distance of two quantities. -/
def apart (a b : Nat) : Nat := (a - b) + (b - a)

/-- The station's own running current: the reported currents of its driven channels, saturating (R29). -/
def State.ownCurrent (s : State) : Nat :=
  min 65535 ((Quad.all.map (fun c => if (s.chan c).driven then (s.chan c).drv.current.getD 0 else 0)).sum)

/-- What the fresh peer entries with a status part report (R45). -/
def peerCurrent (entries : List PeerEntry) : Nat :=
  (entries.map (fun e => if e.fresh then (e.status.map (·.current)).getD 0 else 0)).sum

/-- The reckoned running current, saturating at 65535 (R45). -/
def State.reckoned (s : State) : Nat := min 65535 (s.ownCurrent + peerCurrent s.peer.entries)

/-- A zone is alarmed when its origin set is non-empty or the general timer is running (R78). -/
def State.zoneAlarmed (s : State) (z : Zone) : Bool :=
  !(s.fire.origins.get z).isEmpty || s.fire.generalTimer.isSome

/-- Some zone is alarmed (R168). -/
def State.anyAlarmed (s : State) : Bool := Quad.all.any s.zoneAlarmed

/-! ## Writing -/

/-- The state with one channel replaced. -/
def State.setChan (s : State) (c : Chan) (k : Channel) : State := { s with ch := s.ch.set c k }

/-- The state with one channel updated. -/
def State.modChan (s : State) (c : Chan) (f : Channel → Channel) : State := s.setChan c (f (s.chan c))

/-- An operation on each channel in turn, CH1 first. -/
def State.eachChan (s : State) (f : Chan → State → State) : State :=
  f .four (f .three (f .two (f .one s)))

/-! ## The fault set (R166) -/

/-- A code put into an ascending list, once. -/
def insertCode (code : Nat) : List Nat → List Nat
  | [] => [code]
  | a :: rest =>
    if code < a then code :: a :: rest
    else if code = a then a :: rest
    else a :: insertCode code rest

/-- A code joins the fault set; one already present changes nothing. -/
def State.addFault (s : State) (code : Nat) : State :=
  { s with sup.faults := insertCode code s.sup.faults }

/-- A code leaves the fault set; one absent changes nothing. -/
def State.removeFault (s : State) (code : Nat) : State :=
  { s with sup.faults := s.sup.faults.filter (fun a => a != code) }

/-- A code stands in the fault set or not, as a condition says. -/
def State.faultIf (s : State) (code : Nat) (stands : Bool) : State :=
  if stands then s.addFault code else s.removeFault code

/-- The code of a channel for a cause: 16 + 8 × (channel − 1) + cause (R140). -/
def channelCode (c : Chan) (cause : Nat) : Nat := 16 + 8 * (c.number - 1) + cause

/-- The codes of one channel leave the fault set (R133). -/
def State.clearChannelCodes (s : State) (c : Chan) : State :=
  { s with sup.faults :=
      s.sup.faults.filter (fun a => decide (a < channelCode c 0) || decide (channelCode c 4 < a)) }

/-! ## The outgoing queue (R15, R24) -/

/-- Whether an entry of a key is in flight. -/
def State.inFlight (s : State) (key : Kind × Option Zone) : Bool :=
  match s.line.flight with
  | some f => decide (f.content.key = key)
  | none => false

/-- An entry put into the queue: after the entries of its own class and of the classes before it. -/
def enqueue (q : List QueueEntry) (e : QueueEntry) : List QueueEntry :=
  let before : QueueEntry → Bool := fun a => decide (a.notice.noticeClass.rank ≤ e.notice.noticeClass.rank)
  q.takeWhile before ++ e :: q.dropWhile before

/-- An entry of the same key replaced in place: position, age and mark are kept, the failed-attempt count
becomes 0. -/
def replaceEntry (n : Notice) (e : QueueEntry) : QueueEntry :=
  if e.notice.key = n.key then { e with notice := n, failed := 0 } else e

/-- The condition of R13: an unmarked ALARM notice at the head of the queue, and a notice of class ROUTINE
being received, not sent, of which more than 10 characters are still to come after its length, counted from the
end of the current character: one in progress is not among them. Between two characters the current one is the
one that ended last. -/
def State.breakDue (s : State) : Bool :=
  match s.line.queue, s.line.receiver, s.line.flight with
  | e :: _, .receiving chars inChar, none =>
    decide (e.notice.noticeClass = .alarm) && !e.mark &&
      (match chars with
       | h :: _ :: _ :: _ => routineHead h
       | _ => false) &&
      decide (10 + inChar.toNat < charsToCome chars)
  | _, _, _ => false

/-- The test of R13; once it has held, the break begins at the next end of a character (log entry 54). -/
def State.testBreak (s : State) : State :=
  if s.breakDue then { s with line.breakArmed := true } else s

/-- A block queues a notice (R15): it replaces the entry of its key in place, or joins in class and age
order. A replaced entry in flight goes on with its old content. The test of R13 follows, since an ALARM
notice may have reached the head. -/
def State.queueNotice (s : State) (n : Notice) : State :=
  let s1 :=
    if s.line.queue.any (fun e => decide (e.notice.key = n.key)) then
      { s with
        line.queue := s.line.queue.map (replaceEntry n)
        line.flight := s.line.flight.map (fun f => if f.content.key = n.key then { f with replaced := true } else f) }
    else { s with line.queue := enqueue s.line.queue ⟨n, 0, false⟩ }
  s1.testBreak

/-- A block withdraws a notice: an entry not in flight leaves the queue, without a drop (R24). One in flight stays, and ends by R12; where it
was replaced in flight its new content stays with it, and is sent after the clean echo of the old one (log entry 52). -/
def State.withdraw (s : State) (key : Kind × Option Zone) : State :=
  if s.inFlight key then s
  else { s with line.queue := s.line.queue.filter (fun e => !decide (e.notice.key = key)) }

end Sys2Proof.Machine
end

