-- ==== Sys2Proof/Machine/Flags.lean ====
section
/-! DEFINITION. The outputs that show the station's condition, the fault relay and the lamp (R167, R168), and
the notices that the station makes from its state (R25 to R33). -/

namespace Sys2Proof.Machine

open Sys2Proof

/-! ## Relay and lamp -/

/-- The lamp pattern: the first whose condition holds (R168). -/
def State.lampPattern (s : State) : LampPattern :=
  if s.starting then .off
  else if s.anyAlarmed then .fast
  else if s.line.isolation then .double
  else if !s.sup.faults.isEmpty then .slow
  else .steady

/-- How long a part of a flashing cycle lasts, in ms: fast 125 and 125, double 150, 150, 150 and 1050, slow
1000 and 1000. -/
def lampPart : LampPattern → Nat → Timer
  | .fast, _ => some 125
  | .slow, _ => some 1000
  | .double, 3 => some 1050
  | .double, _ => some 150
  | _, _ => none

/-- A pattern from the start of its cycle, with the lamp on but in the pattern off. -/
def lampStart (p : LampPattern) : Lamp := ⟨p, 0, decide (p ≠ .off), lampPart p 0⟩

/-- The next part of a flashing cycle: the lamp toggles. -/
def Lamp.next (l : Lamp) : Lamp :=
  let parts := if l.pattern = .double then 4 else 2
  let part := (l.part + 1) % parts
  { l with part := part, on := !l.on, timer := lampPart l.pattern part }

/-- The relay follows the fault set once presence detection has ended, and the lamp begins a new pattern where
the pattern differs from the one shown (R167, R168). -/
def State.refreshOutputs (s : State) : State :=
  { s with
    sup.relay := s.detected && s.sup.faults.isEmpty
    sup.lamp := if s.lampPattern = s.sup.lamp.pattern then s.sup.lamp else lampStart s.lampPattern }

/-! ## STATUS (R29, R30) -/

/-- The mode as STATUS carries it. No STATUS is queued in STARTING (R30). -/
def Mode.run : Mode → RunMode
  | .service => .service
  | .isolated => .isolated
  | _ => .normal

/-- The source of a winner. -/
def Winner.source (w : Winner) : Option Source := w.map Prod.fst

/-- The channel records: one for each channel that is not ABSENT, in channel order (R29). -/
def State.chanRecords (s : State) : List ChanRecord :=
  (Quad.all.filter (fun c => decide ((s.chan c).state ≠ .absent))).map
    (fun c => ⟨(s.chan c).state, Winner.source (s.chan c).dem.win, s.position c⟩)

/-- The content the station would report now (R29). -/
def State.statusContent (s : State) : StatusContent where
  mode := s.sup.mode.run
  zone := s.zone
  fireZones := ⟨!s.fire.origins.one.isEmpty, !s.fire.origins.two.isEmpty, !s.fire.origins.three.isEmpty,
    !s.fire.origins.four.isEmpty⟩
  general := s.fire.generalTimer.isSome
  current := s.ownCurrent
  channels := s.chanRecords

/-- The ways in which a channel record calls for a STATUS (R30): the state or the source differs, the position
differs by 20 or more, or it has become 0 or 1000. -/
def recordDiffers (last now : ChanRecord) : Bool :=
  decide (last.state ≠ now.state) || decide (last.source ≠ now.source) ||
    decide (20 ≤ apart last.position now.position) ||
    (decide (last.position ≠ now.position) && (decide (now.position = 0) || decide (now.position = 1000)))

/-- Whether some record calls for a STATUS. -/
def recordsDiffer : List ChanRecord → List ChanRecord → Bool
  | [], [] => false
  | a :: as, b :: bs => recordDiffers a b || recordsDiffer as bs
  | _, _ => true

/-- Whether the content differs from the last STATUS queued in a way that R30 lists. -/
def statusDiffers (last now : StatusContent) : Bool :=
  decide (last.mode ≠ now.mode) || decide (last.zone ≠ now.zone) ||
    decide (last.fireZones ≠ now.fireZones) || decide (last.general ≠ now.general) ||
    recordsDiffer last.channels now.channels || decide (5 ≤ apart last.current now.current)

/-- STATUS is queued: its content becomes the last queued, the 5 s count and the 200 ms spacing start
(R30). -/
def State.queueStatus (s : State) : State :=
  let s1 := s.queueNotice (.status s.statusContent)
  { s1 with
    sched.lastStatus := some s.statusContent
    sched.statusPeriod := some 5000
    sched.statusSpacing := some 200 }

/-- A change-caused STATUS: outside STARTING, where the content differs from the last queued and the spacing is
over (R30). -/
def State.statusOnChange (s : State) : State :=
  match s.sched.lastStatus with
  | some last =>
    if !s.starting && s.sched.statusSpacing.isNone && statusDiffers last s.statusContent then s.queueStatus else s
  | none => s

/-! ## The other notices of the schedules -/

/-- The configuration signature: word 63 of the loaded image, 0 for the outcome LOST (R33). -/
def State.configSignature (s : State) : Word :=
  if s.cfg.outcome = .lost then 0#16 else imageWord s.cfg.image 63

/-- The content of a HEALTH notice; its counters are filled at each attempt (R16, R33). -/
def State.healthContent (s : State) : HealthContent where
  valid := s.line.valid
  discard := s.line.discard
  dropped := s.line.dropped
  signature := s.configSignature
  outcome := s.cfg.outcome
  lastCorrected := s.cfg.lastCorrected
  codes := s.sup.faults.take 16

/-- HEALTH is queued, and 60 s later the next (R33). -/
def State.queueHealth (s : State) : State :=
  let s1 := s.queueNotice (.health s.healthContent)
  { s1 with sched.healthPeriod := some 60000 }

/-- WEATHER is queued with the own report, and 2 s later the next (R31). -/
def State.queueWeather (s : State) : State :=
  let s1 := s.queueNotice (.weather s.wx.own)
  { s1 with sched.weatherPeriod := some 2000 }

/-- The key state that an OVERRIDE notice carries for a key position. -/
def KeyPos.keyState : KeyPos → KeyState
  | .auto => .released
  | .open => .open
  | .close => .close

/-- OVERRIDE is queued; the 5 s repetition runs while the key stands at OPEN or CLOSE (R27). -/
def State.queueOverride (s : State) : State :=
  let s1 := s.queueNotice (.override s.fire.keyTaken.keyState)
  { s1 with sched.overrideRepeat := if s.fire.keyTaken = .auto then none else some 5000 }

end Sys2Proof.Machine
end

