-- ==== Sys2Proof/Machine/Posting.lean ====
section
/-! DEFINITION. The Demand Unit and the Drive Unit on one channel: the winning source, what a change of it does
in each channel state, reference runs, starts, stops and completions (R90 to R107, R129 to R146). -/

namespace Sys2Proof.Machine

open Sys2Proof

/-! ## Leaving a claim (R123) -/

/-- The live claim ends without a grant; its CLAIM, if it still waits, is withdrawn (R123). One in flight ends by R12: where its attempt
fails it stays in the queue and is sent again, but not while the station is isolated (log entry 50), and the content of this claim stays
where that of an earlier one is in flight (log entry 52). -/
def State.dropClaim (s : State) : State :=
  if s.bud.own.state = .none then s
  else
    let s1 := if s.bud.own.state = .queued then s.withdraw (.claim, none) else s
    { s1 with bud.own := OwnClaim.none, bud.settleTimer := none }

/-- The supply veto begins, or the isolation condition sets: the live claim is dropped, and a CLAIM that waits in the queue is withdrawn,
also one whose claim was dropped before, while it was in flight (R24, R125 to R127). -/
def State.giveUpClaims (s : State) : State := s.dropClaim.withdraw (.claim, none)

/-- A channel that leaves WAITING leaves the live claim; with its last channel the claim is dropped (R123). -/
def State.leaveClaim (s : State) (c : Chan) : State :=
  if s.bud.own.state ≠ .none && s.bud.own.channels.get c then
    let set := s.bud.own.channels.set c false
    if set = Four.all false then s.dropClaim else { s with bud.own.channels := set }
  else s

/-! ## The winning source (R92, R93, R98) -/

/-- The target of a jog: 1000 opening, 0 closing (R90). -/
def Jog.target (j : Jog) : Nat :=
  match j.dir with
  | .opening => 1000
  | .closing => 0

/-- The highest-precedence source present, LOCAL, VENTILATE and JOG being absent under the limit veto (R90,
R93). -/
def Channel.winner (k : Channel) : Winner :=
  match k.src.override with
  | some t => some (.override, .pos t)
  | none =>
    match k.src.fire with
    | some d => some (.fire, d)
    | none =>
      if k.src.weather then some (.weather, .pos 0)
      else if k.lim.veto then none
      else
        match k.src.localKey with
        | some t => some (.localKey, .pos t)
        | none =>
          match k.src.ventilate with
          | some t => some (.ventilate, .pos t)
          | none => k.drv.jog.map (fun j => (.jog, .pos j.target))

/-- With the stroke unknown, a target below 500 becomes 0 and any other 1000 (R98). -/
def endTarget (known : Bool) (t : Target) : Target :=
  match t with
  | .hold => .hold
  | .pos t => if known then .pos t else if t < 500 then .pos 0 else .pos 1000

/-- The winning source and target of a channel; none on every channel under the supply veto (R92, R94). -/
def State.winner (s : State) (c : Chan) : Winner :=
  if s.supplyVeto then none
  else (s.chan c).winner.map (fun w => (w.1, endTarget (s.strokeKnown c) w.2))

/-- FIRE or OVERRIDE. -/
def Source.high : Source → Bool
  | .override => true
  | .fire => true
  | _ => false

/-- A winner whose source is FIRE or OVERRIDE. -/
def highWinner (w : Winner) : Bool :=
  match w with
  | some (src, _) => src.high
  | none => false

/-- A winner under which a due reference may start: LOCAL, VENTILATE, JOG or none (R104). -/
def lowWinner (w : Winner) : Bool :=
  match w with
  | some (.localKey, _) => true
  | some (.ventilate, _) => true
  | some (.jog, _) => true
  | none => true
  | _ => false

/-- The target of a winner. -/
def Winner.target (w : Winner) : Option Target := w.map Prod.snd

/-- Whether a target calls for a movement of a referenced channel (R98). -/
def State.callsMovement (s : State) (c : Chan) (t : Nat) : Bool :=
  (s.strokeKnown c && decide (20 ≤ apart t (s.position c))) ||
    (decide (t = 0) && decide ((s.chan c).drv.restEnd ≠ some .closedEnd)) ||
    (decide (t = 1000) && decide ((s.chan c).drv.restEnd ≠ some .openEnd))

/-! ## Channel moves -/

/-- Into the rest state, with no movement in hand. -/
def Channel.toRest (k : Channel) : Channel :=
  { k with state := k.restState, dem.movement := none, dem.pending := none }

/-- Into WAITING with a movement in hand. -/
def Channel.toWaiting (k : Channel) (m : Movement) (pending : Option Target) : Channel :=
  { k with state := .waiting, dem.movement := some m, dem.pending := pending }

/-- The motor is released: the coast window opens for 500 ms, every timer of R134 to R139 stops, and the channel
leaves the running current (R131, R143). -/
def Channel.release (k : Channel) : Channel :=
  { k with
    drv.dir := none
    drv.coast := some 500
    drv.inrushMask := none
    drv.stallTimer := none
    drv.overcurrentTimer := none
    drv.openLoadTimer := none
    drv.noPulseTimer := none
    drv.reportTimer := none
    drv.current := none }

/-- Into REVERSING with a pending target: the pause runs for 500 ms (R144). -/
def Channel.toReversing (k : Channel) (pending : Option Target) : Channel :=
  { k with
    state := .reversing
    dem.movement := none
    dem.pending := pending
    drv.reversalTimer := some 500 }

/-- A jog ends at an end in its direction (R146). -/
def jogAfterEnd (j : Option Jog) (e : Option Extreme) : Option Jog :=
  match j, e with
  | some j, some .openEnd => if j.dir = .opening then none else some j
  | some j, some .closedEnd => if j.dir = .closing then none else some j
  | j, _ => j

/-- A completed movement (R133): the motor released, the rest state, the end at which the channel rests, the
movement count of a referenced channel (R103), no retry. -/
def Channel.complete (k : Channel) (stroke : Nat) (stall : Option Extreme) : Channel :=
  let e : Option Extreme := if stall.isNone && decide (k.drv.count = stroke) then some .openEnd else stall
  let n := if k.drv.referenced then min 65535 (k.dem.moveCount + 1) else k.dem.moveCount
  let k1 := k.release.toRest
  { k1 with
    drv.restEnd := e
    drv.retryCount := 0
    drv.retryTimer := none
    drv.retryHeld := false
    drv.jog := jogAfterEnd k.drv.jog e
    dem.moveCount := n
    dem.refDue := k.dem.refDue || (k.drv.referenced && decide (n = 200)) }

/-- A completed reference (R103, R133): the count 0, referenced, IDLE at the closed end, the movement count 0,
the 7-day timer restarted, nothing due. -/
def Channel.completeReference (k : Channel) : Channel :=
  let k1 := { k with drv.referenced := true, drv.count := 0 }
  let k2 := k1.release.toRest
  { k2 with
    drv.restEnd := some .closedEnd
    drv.retryCount := 0
    drv.retryTimer := none
    drv.retryHeld := false
    drv.jog := jogAfterEnd k.drv.jog (some .closedEnd)
    dem.moveCount := 0
    dem.refTimer := some 604800000
    dem.refDue := false }

/-! ## Reference runs (R104) -/

/-- A due reference starts: the flag set, the channel IDLE, LOCAL, VENTILATE, JOG or none winning, and no veto of
reference runs nor supply veto (R104). -/
def State.refStarts (s : State) (c : Chan) (w : Winner) : Bool :=
  (s.chan c).dem.refDue && decide ((s.chan c).state = .idle) && lowWinner w &&
    !(s.chan c).lim.veto && !s.supplyVeto

/-- A REFERENCE movement with target 0 formed for a winner, whose target is put in the pending target
(R104, R105). -/
def State.formReference (s : State) (c : Chan) (w : Winner) : State :=
  s.modChan c (fun k => k.toWaiting ⟨.reference, 0, w.map Prod.fst⟩ w.target)

/-- The test of R104 with the channel's own winner. -/
def State.testReference (s : State) (c : Chan) : State :=
  let w := (s.chan c).dem.win
  if s.refStarts c w then s.formReference c w else s

/-! ## Changes at rest (R99, R107, R156) -/

/-- The movement that R107 forms on an UNREFERENCED channel, with its pending target; under the limit veto a
closing for OVERRIDE, FIRE or WEATHER is an ORDINARY movement (R156). A FREEZE capture that stands on a channel which has since lost its
reference is taken by its value: 1000 and 0 as those targets, another as a hold (log entry 60, the model's choice). -/
def Channel.unreferencedMovement (k : Channel) (w : Winner) : Option (Movement × Option Target) :=
  match w with
  | none => none
  | some (_, .hold) => none
  | some (src, .pos 0) =>
    if k.lim.veto && (src.high || decide (src = .weather)) then some (⟨.ordinary, 0, some src⟩, none)
    else some (⟨.reference, 0, some src⟩, none)
  | some (src, .pos t) =>
    if src.high then
      if t = 1000 && k.drv.restEnd ≠ some .openEnd then some (⟨.ordinary, 1000, some src⟩, none) else none
    else some (⟨.reference, 0, some src⟩, some (.pos t))

/-- A winner taken by a channel in its rest state (R99, R104, R107). -/
def State.takeAtRest (s : State) (c : Chan) (w : Winner) : State :=
  if s.refStarts c w then s.formReference c w
  else
    match (s.chan c).state, w with
    | .idle, some (src, .pos t) =>
      if s.callsMovement c t then s.modChan c (fun k => k.toWaiting ⟨.ordinary, t, some src⟩ none) else s
    | .unreferenced, w =>
      match (s.chan c).unreferencedMovement w with
      | some (m, pending) => s.modChan c (fun k => k.toWaiting m pending)
      | none => s
    | _, _ => s

/-! ## Changes in WAITING (R100, R104, R107) -/

/-- A waiting channel returns to its rest state, leaves its claim, and the test of R104 is made. -/
def State.withdrawChan (s : State) (c : Chan) : State :=
  ((s.modChan c Channel.toRest).leaveClaim c).testReference c

/-- The movement in hand replaced by an ORDINARY one to a target, or the channel withdrawn (R100). -/
def State.replaceOrdinary (s : State) (c : Chan) (w : Winner) : State :=
  match w with
  | some (src, .pos t) =>
    if s.callsMovement c t then s.modChan c (fun k => k.toWaiting ⟨.ordinary, t, some src⟩ none)
    else s.withdrawChan c
  | _ => s.withdrawChan c

/-- A winner taken by a referenced channel in WAITING (R100, R104). -/
def State.takeWaitingReferenced (s : State) (c : Chan) (w : Winner) (m : Movement) : State :=
  match m.kind with
  | .ordinary => s.replaceOrdinary c w
  | .reference =>
    if highWinner w then s.replaceOrdinary c w
    else s.modChan c (fun k => k.toWaiting { m with formedFor := w.map Prod.fst } w.target)

/-- A winner taken by an UNREFERENCED channel in WAITING (R100, R107): a target kept stands in an ORDINARY
movement; a target 0 leaves a reference as it stands; otherwise the movement is the one that the table of R107 forms. At the open end
the table has none for 1000 of FIRE or OVERRIDE, and the channel returns to rest (log entry 49). -/
def State.takeWaitingUnreferenced (s : State) (c : Chan) (w : Winner) (m : Movement) : State :=
  if m.kind = .ordinary ∧ w.target = some (.pos m.target) then
    s.modChan c (fun k => k.toWaiting { m with formedFor := w.map Prod.fst } k.dem.pending)
  else
    match (s.chan c).unreferencedMovement w with
    | none => s.withdrawChan c
    | some (m', pending) =>
      s.modChan c (fun k =>
        k.toWaiting m' (if m.kind = .reference ∧ m'.kind = .reference ∧ pending = none then k.dem.pending else pending))

/-- A winner taken by a channel in WAITING. -/
def State.takeWaiting (s : State) (c : Chan) (w : Winner) : State :=
  match (s.chan c).dem.movement with
  | none => s
  | some m =>
    if (s.chan c).drv.referenced then s.takeWaitingReferenced c w m else s.takeWaitingUnreferenced c w m

/-! ## Changes in RUNNING, REFERENCING, REVERSING and FAULTED -/

/-- The recorded winner of a channel becomes its present one. -/
def State.setWinner (s : State) (c : Chan) : State :=
  s.modChan c (fun k => { k with dem.win := s.winner c })

/-- The fault codes of a completed channel leave the fault set with the completion (R133). -/
def State.complete (s : State) (c : Chan) (stall : Option Extreme) : State :=
  (s.modChan c (fun k => k.complete (s.stroke c) stall)).clearChannelCodes c

/-- A stop to rest, not complete (R143). -/
def State.stopToRest (s : State) (c : Chan) : State :=
  (s.modChan c (fun k => k.release.toRest)).testReference c

/-- A stop to reverse with a pending target (R143, R144). -/
def State.stopToReverse (s : State) (c : Chan) (t : Nat) : State :=
  s.modChan c (fun k => k.release.toReversing (some (.pos t)))

/-- A new target is ahead of a closing drive: it is 0, or the count is above floor(t × S / 1000) (R101). -/
def Channel.aheadClosing (k : Channel) (stroke t : Nat) : Bool :=
  decide (t = 0) || decide (lowerStop stroke t < k.drv.count)

/-- A new target is ahead of a drive: its stop test in the direction driven is not yet met (R101). -/
def Channel.ahead (k : Channel) (stroke t : Nat) : Bool :=
  match k.drv.dir with
  | some .opening =>
    decide (t = 1000) || (k.drv.referenced && decide (k.drv.count < upperStop stroke t))
  | some .closing => k.aheadClosing stroke t
  | none => false

/-- A target that is not ahead completes the movement where it is within 20 of the position; an UNREFERENCED channel
driven open and a channel of unknown stroke have no such target (R98, R101). -/
def State.withinDeadband (s : State) (c : Chan) (t : Nat) : Bool :=
  s.strokeKnown c &&
    !(!(s.chan c).drv.referenced && decide ((s.chan c).drv.dir = some .opening)) &&
    decide (apart t (s.position c) < 20)

/-- A winner taken by a channel in RUNNING (R101). A completion at an end can end a jog (R146), the lowest source, so that none
wins. -/
def State.takeRunning (s : State) (c : Chan) (w : Winner) : State :=
  match w with
  | some (src, .pos t) =>
    if (s.chan c).ahead (s.stroke c) t then
      s.modChan c (fun k => { k with dem.movement := some ⟨.ordinary, t, some src⟩ })
    else if s.withinDeadband c t then ((s.complete c none).setWinner c).testReference c
    else s.stopToReverse c t
  | _ => s.stopToRest c

/-- A target that needs a channel whose reference run is stopped to open (R98, R101, R105): the open end on an UNREFERENCED channel,
any target but 0 where the stroke is unknown, since only the end tests apply there, and else one 20 or more above the position. -/
def State.needsOpening (s : State) (c : Chan) (w : Winner) (t : Nat) : Bool :=
  if (s.chan c).drv.referenced then
    if s.strokeKnown c then decide (s.position c + 20 ≤ t) else decide (t ≠ 0)
  else decide (t = 1000) && highWinner w

/-- A reference run stopped or aborted, and the winner then taken as by a channel driven closing (R101, R105): a target that needs
the channel to open reverses; a hold or none stays at rest, and so does any other target that is not ahead of a closing drive, 1000 with
the count still at S among them (log entry 18); a target ahead, which is a closing one or 0, is taken at rest. -/
def State.stopReference (s : State) (c : Chan) (w : Winner) : State :=
  match w with
  | some (_, .pos t) =>
    if s.needsOpening c w t then s.stopToReverse c t
    else if (s.chan c).drv.referenced && s.strokeKnown c && !(s.chan c).aheadClosing (s.stroke c) t then s.stopToRest c
    else (s.modChan c (fun k => k.release.toRest)).takeAtRest c w
  | _ => s.stopToRest c

/-- Whether a run was formed for OVERRIDE or FIRE (R105). -/
def Movement.formedHigh (m : Movement) : Bool :=
  match m.formedFor with
  | some src => src.high
  | none => false

/-- A winner taken by a channel in REFERENCING (R105). A run formed for OVERRIDE or FIRE whose winner fell to a lower source, and then is
OVERRIDE or FIRE with target 0 again, goes on (log entry 58, the model's choice). -/
def State.takeReferencing (s : State) (c : Chan) (w : Winner) : State :=
  if highWinner w then
    if ((s.chan c).dem.movement.map Movement.formedHigh).getD false && decide (w.target = some (.pos 0)) then s
    else s.stopReference c w
  else s.modChan c (fun k => { k with dem.pending := w.target })

/-- A winner taken by a channel in REVERSING: the pending target is replaced (R102, R144). -/
def State.takeReversing (s : State) (c : Chan) (w : Winner) : State :=
  s.modChan c (fun k => { k with dem.pending := w.target })

/-- A winner taken by a FAULTED channel: a position target leaves FAULTED, a hold or none stops the retry timer (R99,
R141, R142). -/
def State.takeFaulted (s : State) (c : Chan) (w : Winner) : State :=
  match w with
  | some (_, .pos _) =>
    (s.modChan c (fun k =>
      { k.toRest with drv.retryCount := 0, drv.retryTimer := none, drv.retryHeld := false })).takeAtRest c w
  | _ => s.modChan c (fun k => { k with drv.retryTimer := none, drv.retryHeld := false })

/-- A change of the winner taken by the posting rules in the channel's state (section 6.4). -/
def State.take (s : State) (c : Chan) (w : Winner) : State :=
  match (s.chan c).state with
  | .absent => s
  | .unreferenced => s.takeAtRest c w
  | .idle => s.takeAtRest c w
  | .waiting => s.takeWaiting c w
  | .running => s.takeRunning c w
  | .reversing => s.takeReversing c w
  | .referencing => s.takeReferencing c w
  | .faulted => s.takeFaulted c w

/-- The winner is recomputed, and a change of source or target is taken (R92). Until presence detection has ended the
winner alone changes: the first demand is taken at its end (R161, log entry 10). -/
def State.recompute (s : State) (c : Chan) : State :=
  if (s.chan c).state = .absent then s
  else if s.winner c = (s.chan c).dem.win then s
  else if s.detected then (s.setWinner c).take c (s.winner c)
  else s.setWinner c

/-- The source set of a channel changes, and the winner is recomputed (R90, R92). -/
def State.handOver (s : State) (c : Chan) (f : Sources → Sources) : State :=
  if (s.chan c).state = .absent then s
  else (s.modChan c (fun k => { k with src := f k.src })).recompute c

/-- After a completion or an end reached: the winner is recomputed, since a jog may have ended, and the test of R104 is
made. -/
def State.settleChan (s : State) (c : Chan) : State := (s.recompute c).testReference c

/-! ## Starts (R130) -/

/-- The direction of a start; none where the count lies from the lower to the upper stop point (R130). -/
def Channel.startDir (k : Channel) (stroke : Nat) (m : Movement) : Option Dir :=
  if m.kind = .reference ∨ m.target = 0 then some .closing
  else if m.target = 1000 then some .opening
  else if k.drv.count < lowerStop stroke m.target then some .opening
  else if upperStop stroke m.target < k.drv.count then some .closing
  else none

/-- The jog timer starts at the first start of the channel after the acceptance (R146). -/
def Jog.started (j : Jog) : Jog := if j.timer.isNone then { j with timer := some j.time } else j

/-- A channel as its motor starts: the resting end cleared, the coast window ended, the mask and the overcurrent test
begun, the reported current at the run rating (R130, R134). A start without a direction, complete at once, leaves the direction last
driven as it was (log entry 39, the model's choice). -/
def Channel.started (k : Channel) (m : Movement) (dir : Option Dir) (run : Nat) : Channel :=
  { k with
    state := if m.kind = .reference then .referencing else .running
    drv.dir := dir
    drv.lastDir := dir.or k.drv.lastDir
    drv.restEnd := none
    drv.coast := none
    drv.inrushMask := some 300
    drv.overcurrentTimer := some 20
    drv.current := some run
    drv.jog := k.drv.jog.map Jog.started }

/-- A waiting channel is started; a movement complete at its start completes at the same instant (R130). -/
def State.startChan (s : State) (c : Chan) : State :=
  match (s.chan c).state, (s.chan c).dem.movement with
  | .waiting, some m =>
    let dir := (s.chan c).startDir (s.stroke c) m
    let s1 := s.modChan c (fun k => k.started m dir (s.chFields c).run)
    if dir.isNone then (s1.complete c none).settleChan c else s1
  | _, _ => s

/-! ## Ends and faults (R133, R136, R140) -/

/-- The target that an end completes. -/
def Extreme.target : Extreme → Nat
  | .closedEnd => 0
  | .openEnd => 1000

/-- The count that an end sets. -/
def Extreme.count (e : Extreme) (stroke : Nat) : Nat :=
  match e with
  | .closedEnd => 0
  | .openEnd => stroke

/-- An ordinary movement reaches an end (R136): complete where the end is its target, else the winning target is taken at
once at rest. -/
def State.reachEnd (s : State) (c : Chan) (e : Extreme) : State :=
  let s1 := s.modChan c (fun k => { k with drv.count := e.count (s.stroke c) })
  if ((s.chan c).dem.movement.map Movement.target) = some e.target then (s1.complete c (some e)).settleChan c
  else
    let s2 := s1.modChan c (fun k =>
      { k.release.toRest with drv.restEnd := some e, drv.jog := jogAfterEnd k.drv.jog (some e) })
    let s3 := s2.setWinner c
    s3.takeAtRest c (s3.chan c).dem.win

/-- A reference run completes at the closed end, and the winning target is taken at once (R106, R133). -/
def State.reachReference (s : State) (c : Chan) : State :=
  let s1 := (s.modChan c Channel.completeReference).clearChannelCodes c
  let s2 := s1.setWinner c
  s2.takeAtRest c (s2.chan c).dem.win

/-- A winner that a FAULTED channel retries for: OVERRIDE or FIRE with a position target (R141). -/
def retryWinner (w : Winner) : Bool :=
  match w with
  | some (src, .pos _) => src.high
  | _ => false

/-- The causes of a channel fault with their values (R140). -/
inductive Cause where
  | stall | overcurrent | openLoad | noPulse
  deriving DecidableEq, Repr, Inhabited

/-- The value of a cause in the fault code. -/
def Cause.value : Cause → Nat
  | .stall => 0
  | .overcurrent => 1
  | .openLoad => 2
  | .noPulse => 3

/-- The loss of reference at a NO_PULSE fault (R138). -/
def Channel.loseReference (k : Channel) : Channel :=
  { k with drv.referenced := false, dem.moveCount := 0, dem.refTimer := none, dem.refDue := false }

/-- A channel takes a fault (R140): the motor released, FAULTED, its code in the fault set, a jog ended (R146), and a retry
timer for OVERRIDE or FIRE (R141). -/
def State.channelFault (s : State) (c : Chan) (cause : Cause) : State :=
  let s1 := s.modChan c (fun k =>
    let k1 := { k.release with state := .faulted, dem.movement := none, dem.pending := none, drv.jog := none }
    if cause = .noPulse then k1.loseReference else k1)
  let s2 := (s1.addFault (channelCode c cause.value)).setWinner c
  s2.modChan c (fun k =>
    { k with drv.retryTimer := if retryWinner k.dem.win && decide (k.drv.retryCount < 3) then some 5000 else none })

/-- A jog ends: the JOG source becomes absent, and the winner is recomputed (R92, R146, R176). With no other source present none wins:
a channel RUNNING for the jog is stopped to rest (R101, R143, R146), and a reference run goes on with nothing pending, one formed for the
jog too (R105, log entry 35). -/
def State.endJog (s : State) (c : Chan) : State := (s.modChan c (fun k => { k with drv.jog := none })).recompute c

/-- A retry (R141): the retry count rises, the channel leaves FAULTED and takes its winning target at rest; where that
calls for no movement the count becomes 0. -/
def State.retryChan (s : State) (c : Chan) : State :=
  let s1 := s.modChan c (fun k =>
    { k.toRest with
      drv.retryCount := k.drv.retryCount + 1
      drv.retryTimer := none
      drv.retryHeld := false })
  let s2 := s1.takeAtRest c (s1.chan c).dem.win
  if (s2.chan c).atRest then s2.modChan c (fun k => { k with drv.retryCount := 0 }) else s2

end Sys2Proof.Machine
end

