-- ==== Sys2Proof/Machine/Budget.lean ====
section
/-! DEFINITION. The Budget Unit: the start list, forming and deciding a claim, the grant, and the isolated starts
(R110 to R127). -/

namespace Sys2Proof.Machine

open Sys2Proof

/-! ## Forming a claim (R114, R115) -/

/-- Candidates taken one after another: the first always, each other where its inrush rating still fits within the
allowance (R115). -/
def takeCandidates (inrush : Chan → Nat) (allowance : Nat) : List Chan → List Chan × Nat → List Chan × Nat
  | [], acc => acc
  | c :: rest, (taken, sum) =>
    if taken.isEmpty || decide (sum + inrush c ≤ allowance) then
      takeCandidates inrush allowance rest (taken ++ [c], sum + inrush c)
    else takeCandidates inrush allowance rest (taken, sum)

/-- The channels of a list as a set. -/
def chanSet (l : List Chan) : Four Bool :=
  ⟨l.contains .one, l.contains .two, l.contains .three, l.contains .four⟩

/-- The channel waits with FIRE or OVERRIDE winning. -/
def State.waitsHigh (s : State) (c : Chan) : Bool :=
  decide ((s.chan c).state = .waiting) && highWinner (s.chan c).dem.win

/-- The claim that R115 selects from the channels now WAITING. -/
def State.selectClaim (s : State) : OwnClaim :=
  let waiting := s.chansIn .waiting
  let high := waiting.filter s.waitsHigh
  let fire := !high.isEmpty
  let order := if fire then high ++ waiting.filter (fun c => !s.waitsHigh c) else waiting
  let allowance := if fire then s.fields.aFire else s.fields.aStart
  let picked := takeCandidates (fun c => (s.chFields c).inrush) allowance order ([], 0)
  ⟨.queued, chanSet picked.1, fire, picked.2⟩

/-- A claim is formed and its CLAIM queued (R28, R114). -/
def State.formClaim (s : State) : State :=
  let own := s.selectClaim
  let s1 := { s with bud.own := own, bud.settleTimer := none }
  s1.queueNotice (.claim own.channels own.inrush own.fire)

/-- The station makes its starts by claims: NORMAL, or SERVICE with the isolation condition clear (R114). -/
def State.claimsAllowed (s : State) : Bool :=
  match s.sup.mode with
  | .normal => true
  | .service => !s.line.isolation
  | _ => false

/-- The formation test of R114. -/
def State.formationTest (s : State) : State :=
  if s.claimsAllowed && !s.supplyVeto && !(s.chansIn .waiting).isEmpty && decide (s.bud.own.state = .none) then
    s.formClaim
  else s

/-- Supersession (R124): a waiting channel with FIRE or OVERRIDE winning ends a live non-fire claim, and a fire claim is
formed at once. -/
def State.supersede (s : State) : State :=
  if decide (s.bud.own.state ≠ .none) && !s.bud.own.fire && Quad.all.any s.waitsHigh then s.formClaim else s

/-! ## Deciding a claim (R118 to R121) -/

/-- The items ahead of the own item. -/
def itemsAhead (bay : Nat) (items : List StartItem) : List StartItem := items.takeWhile (fun i => i.bay != bay)

/-- The inrush sum of some items. -/
def inrushSum (items : List StartItem) : Nat := (items.map (·.inrush)).sum

/-- The sum of the own item, as the own item carries it; the claim's own sum where no own item stands. -/
def State.ownInrush (s : State) : Nat :=
  ((s.bud.items.find? (fun i => i.bay == s.bay)).map (·.inrush)).getD s.bud.own.inrush

/-- The run ratings of the channels still in the claim. -/
def State.claimRun (s : State) : Nat :=
  ((s.bud.own.channels.members).map (fun c => (s.chFields c).run)).sum

/-- The test of a non-fire claim (R118). -/
def State.nonFireTest (s : State) : Bool :=
  !(s.bud.items.any (·.fire)) &&
    decide (inrushSum (itemsAhead s.bay s.bud.items) + s.ownInrush ≤ s.fields.aStart) &&
    decide (s.reckoned + s.claimRun ≤ s.fields.aRun)

/-- The test of a fire claim (R119). -/
def State.fireTest (s : State) : Bool :=
  decide (inrushSum ((itemsAhead s.bay s.bud.items).filter (·.fire)) + s.ownInrush ≤ s.fields.aFire)

/-- A channel of a granted set is started where it still waits. -/
def State.startIfIn (s : State) (set : Four Bool) (c : Chan) : State :=
  if set.get c then s.startChan c else s

/-- The grant (R120): the claim ends, and every channel of it that still waits is started. -/
def State.grant (s : State) : State :=
  let set := s.bud.own.channels
  let s1 := { s with bud.own := OwnClaim.none, bud.settleTimer := none }
  s1.eachChan (fun c s => s.startIfIn set c)

/-- The decision on the own claim: the grant, or DEFERRED (R117 to R119). -/
def State.decideClaim (s : State) : State :=
  if (if s.bud.own.fire then s.fireTest else s.nonFireTest) then s.grant
  else { s with bud.own.state := .deferred, bud.settleTimer := none }

/-- A claim in DEFERRED is decided again (R121). -/
def State.reCheck (s : State) : State :=
  if s.bud.own.state = .deferred then s.decideClaim else s

/-! ## The start list (R111 to R113, R122) -/

/-- Whether a list holds the item of a bay. -/
def holdsBay (bay : Nat) (items : List StartItem) : Bool := items.any (fun i => i.bay == bay)

/-- The own item's claim, in SETTLING or DEFERRED, ends when its item, held before, has left the list; the formation test
follows (R122). -/
def State.endIfOwnItemGone (s : State) (before : List StartItem) : State :=
  if (decide (s.bud.own.state = .settling) || decide (s.bud.own.state = .deferred)) &&
      holdsBay s.bay before && !holdsBay s.bay s.bud.items then
    { s with bud.own := OwnClaim.none, bud.settleTimer := none }
  else s

/-- Whether the removal of an item calls for a re-check: it stood ahead of the own item, or was fire-flagged (R112,
R121). -/
def removalMatters (own : Nat) (items : List StartItem) (i : StartItem) : Bool :=
  i.fire || (itemsAhead own items).contains i

/-- Step 1 of R111: the item of a bay is removed. -/
def withoutBay (bay : Nat) (items : List StartItem) : List StartItem := items.filter (fun i => i.bay != bay)

/-- Step 2 of R111: of 16 items the oldest is removed. -/
def makeRoom (items : List StartItem) : List StartItem := if 16 ≤ items.length then items.drop 1 else items

/-- Items leave the list: a re-claim for the own item (R122), and a re-check where the removal calls for one, decided on the
list without them (R121, log entry 13). -/
def State.removeItems (s : State) (gone rest : List StartItem) : State :=
  let s1 := { s with bud.items := rest }.endIfOwnItemGone s.bud.items
  if gone.any (removalMatters s.bay s.bud.items) then s1.reCheck else s1

/-- The item of a bay leaves the list, aged out (R112) or by step 1 of R111. -/
def State.removeBay (s : State) (bay : Nat) : State :=
  s.removeItems (s.bud.items.filter (fun i => i.bay == bay)) (withoutBay bay s.bud.items)

/-- Step 2 of R111 on the list, with what a removal does. -/
def State.removeOldest (s : State) : State :=
  if 16 ≤ s.bud.items.length then s.removeItems (s.bud.items.take 1) (s.bud.items.drop 1) else s

/-- The item of a claim is appended to a list (step 3 of R111). -/
def State.append (s : State) (rest : List StartItem) (bay : Nat) (set : Four Bool) (inrush : Nat) (fire : Bool) : State :=
  { s with bud.items := rest ++ [⟨bay, set, inrush, fire, 0⟩] }

/-- The own item is placed by the three steps of R111 (R113). The claim is then in QUEUED, or none is live, so that a removal acts
on no claim. -/
def State.placeItem (s : State) (set : Four Bool) (inrush : Nat) (fire : Bool) : State :=
  s.append (makeRoom (withoutBay s.bay s.bud.items)) s.bay set inrush fire

/-- A peer's CLAIM (R111): each removal is tested where it is made, and the new item is appended. -/
def State.takeClaim (s : State) (bay : Nat) (set : Four Bool) (inrush : Nat) (fire : Bool) : State :=
  let s1 := (s.removeBay bay).removeOldest
  s1.append s1.bud.items bay set inrush fire

/-! ## Isolated starts (R126, R127) -/

/-- The isolated start timer set: the first start once bay × 200 ms has passed (R127). -/
def State.setIsolatedTimer (s : State) : State :=
  { s with bud.isoTimer := some (s.bay * 200), bud.isoOpen := false }

/-- Isolated starting ends: the timer is stopped (R126). -/
def State.stopIsolatedTimer (s : State) : State := { s with bud.isoTimer := none, bud.isoOpen := false }

/-- The channel an isolated start takes: the lowest-numbered waiting one with FIRE or OVERRIDE winning, else the
lowest-numbered waiting one (R127). -/
def State.isolatedChoice (s : State) : Option Chan :=
  match Quad.all.find? s.waitsHigh with
  | some c => some c
  | none => (s.chansIn .waiting).head?

/-- A start that is allowed is made as soon as a channel waits and the supply veto does not stand; the next is allowed
2000 ms later (R127). -/
def State.isolatedSlot (s : State) : State :=
  if s.bud.isoOpen && !s.supplyVeto then
    match s.isolatedChoice with
    | some c =>
      { s with bud.isoOpen := false, bud.isoTimer := some 2000, bud.lastIso := some 0 }.startChan c
    | none => s
  else s

/-! ## The end of a command -/

/-- The reckoned running current once a command's events have changed the peers' terms and not yet the own term. -/
def State.reckonedBetween (s s0 : State) : Nat := min 65535 (s0.ownCurrent + peerCurrent s.peer.entries)

/-- A fall of the reckoned running current since a state (R46): each event of R45 counts on its own. A command's notice or
ageing changes the peers' terms, first, and the motors it then stops lower the own term. -/
def State.fellSince (s s0 : State) : Bool :=
  decide (s.reckonedBetween s0 < s0.reckoned) || decide (s.reckoned < s.reckonedBetween s0)

/-- A fall of the reckoned running current since a state is a re-check (R46, R121). -/
def State.reCheckOnFall (s s0 : State) : State := if s.fellSince s0 then s.reCheck else s

/-- What a command leaves to be done once its own effect stands, against the state it began in (log entry 11): a waiting
FIRE or OVERRIDE channel supersedes a non-fire claim (R124), a fall of the reckoned running current re-checks a deferred
claim (R46, R121), the formation test (R114), an allowed isolated start (R127), a change-caused STATUS (R30), and the relay
and the lamp (R167, R168). -/
def State.finish (s s0 : State) : State :=
  ((((s.supersede.reCheckOnFall s0).formationTest).isolatedSlot).statusOnChange).refreshOutputs

end Sys2Proof.Machine
end

