-- ==== Sys2Proof/Machine/FireOps.lean ====
section
/-! DEFINITION. The Fire Unit's shared operations: fire actions and demands, origin sets, the local fire, the general
alarm, pulse requests, the override map, and the isolation condition that the pulses and starts follow (R17, R25, R26,
R74 to R88). -/

namespace Sys2Proof.Machine

open Sys2Proof

/-! ## Fire action and fire demand (R85 to R88) -/

/-- The strength of an action: OPEN, then CLOSE, then FREEZE, then NONE. -/
def FireAction.strength : FireAction → Nat
  | .open => 3
  | .close => 2
  | .freeze => 1
  | .none => 0

/-- The stronger of two actions. -/
def FireAction.stronger (a b : FireAction) : FireAction := if a.strength < b.strength then b else a

/-- The entry of a channel in the column of a zone, where the column is alarmed. -/
def State.zoneEntry (s : State) (c : Chan) (z : Zone) : FireAction :=
  if s.zoneAlarmed z then (s.fields.response.get z).get c else .none

/-- The entry of a channel in the general column, where it is alarmed. -/
def State.generalEntry (s : State) (c : Chan) : FireAction :=
  if s.fire.generalTimer.isSome then s.fields.responseGeneral.get c else .none

/-- The fire action of a channel: the strongest of its entries in the alarmed columns (R85). -/
def State.fireAction (s : State) (c : Chan) : FireAction :=
  Quad.all.foldl (fun a z => a.stronger (s.zoneEntry c z)) (s.generalEntry c)

/-- The FREEZE capture of a channel now: its position, or a hold where it is not referenced or its stroke is unknown
(R86). -/
def State.captureNow (s : State) (c : Chan) : Target :=
  if (s.chan c).drv.referenced && s.strokeKnown c then .pos (s.position c) else .hold

/-- The capture under a new fire action: taken as the action becomes FREEZE, kept while it stays so, discarded
otherwise (R86). -/
def State.newCapture (s : State) (c : Chan) (a : FireAction) : Option Target :=
  if a = .freeze then
    if (s.chan c).fire.action = .freeze then (s.chan c).fire.capture else some (s.captureNow c)
  else none

/-- The fire demand of a channel (R87). -/
def Channel.fireDemand (k : Channel) : Option Target :=
  match k.fire.action with
  | .open => some (.pos (if k.wind.block then 0 else 1000))
  | .close => some (.pos 0)
  | .freeze => k.fire.capture
  | .none => none

/-- A changed fire demand is handed to the Demand Unit (R88). -/
def State.handFire (s : State) (c : Chan) : State :=
  if (s.chan c).fireDemand = (s.chan c).src.fire then s
  else s.handOver c (fun src => { src with fire := (s.chan c).fireDemand })

/-- The fire action of one channel is recomputed (R85 to R88). -/
def State.refreshFireChan (s : State) (c : Chan) : State :=
  if (s.chan c).state = .absent then s
  else
    let a := s.fireAction c
    (s.modChan c (fun k => { k with fire := ⟨a, s.newCapture c a⟩ })).handFire c

/-- The fire actions of all channels are recomputed. -/
def State.refreshFire (s : State) : State := s.eachChan (fun c s => s.refreshFireChan c)

/-! ## The general alarm and the pulses (R78, R79, R14) -/

/-- The general timer starts, or restarts, at 30 s (R78). -/
def State.startGeneral (s : State) : State := { s with fire.generalTimer := some 30000 }.refreshFire

/-- A hold-down pulse is requested; a request is dropped while LINE_STUCK stands (R14). -/
def State.requestPulse (s : State) : State :=
  if s.sup.faults.contains 1 then s else { s with line.pulseRequested := true }

/-- The three conditions of R79: the local fire stands, the isolation condition is set, the station is not in
STARTING. -/
def State.pulsesDue (s : State) : Bool := s.localFire && s.line.isolation && !s.starting

/-- The pulse timer follows its conditions: the first request and the timer at 5 s when they first all hold, the timer
stopped when one ceases to hold (R79). -/
def State.evalPulse (s : State) : State :=
  if s.pulsesDue then
    if s.fire.pulseTimer.isNone then { s with fire.pulseTimer := some 5000 }.requestPulse else s
  else { s with fire.pulseTimer := none }

/-! ## Isolation (R17, R126) -/

/-- The isolation condition sets (R17): ISOLATED in the fault set, NORMAL becomes ISOLATED, and outside STARTING the live
claim is dropped, a CLAIM that waits withdrawn, and the isolated start timer set (R126, R127). -/
def State.setIsolation (s : State) : State :=
  if s.line.isolation then s
  else
    let s1 := { s with line.isolation := true }.addFault 15
    if s1.starting then s1
    else
      let s2 := if s1.sup.mode = .normal then { s1 with sup.mode := .isolated } else s1
      s2.giveUpClaims.setIsolatedTimer.evalPulse

/-- The isolation condition clears (R17): ISOLATED leaves the fault set, ISOLATED mode returns to NORMAL, the isolated
start timer stops (R126). -/
def State.clearIsolation (s : State) : State :=
  if s.line.isolation then
    let s1 := { s with line.isolation := false }.removeFault 15
    let s2 := if s1.sup.mode = .isolated then { s1 with sup.mode := .normal } else s1
    s2.stopIsolatedTimer.evalPulse
  else s

/-! ## Origin sets (R75, R76) -/

/-- A bay joins an origin set at its tail, where it is absent and the set holds fewer than 8 bays. -/
def joinOrigin (bay : Nat) (set : List Nat) : List Nat :=
  if set.contains bay || decide (8 ≤ set.length) then set else set ++ [bay]

/-- A bay leaves an origin set; the others keep their order. -/
def leaveOrigin (bay : Nat) (set : List Nat) : List Nat := set.filter (fun b => b != bay)

/-- A bay joins the origin set of a zone. -/
def State.joinZone (s : State) (z : Zone) (bay : Nat) : State :=
  { s with fire.origins := s.fire.origins.set z (joinOrigin bay (s.fire.origins.get z)) }

/-- A bay leaves the origin set of a zone. -/
def State.leaveZone (s : State) (z : Zone) (bay : Nat) : State :=
  { s with fire.origins := s.fire.origins.set z (leaveOrigin bay (s.fire.origins.get z)) }

/-- A peer's FIRE (R76). -/
def State.takeFire (s : State) (bay : Nat) (z : Zone) : State := (s.joinZone z bay).refreshFire

/-- A peer's FIRE CLEAR (R76); the own bay takes a slot that frees in the own zone while the local fire stands (R75). -/
def State.takeFireClear (s : State) (bay : Nat) (z : Zone) : State :=
  let removed := (s.fire.origins.get z).contains bay
  let s1 := s.leaveZone z bay
  let s2 := if removed && s.localFire && decide (z = s.zone) then s1.joinZone s.zone s.bay else s1
  s2.refreshFire

/-! ## The local fire (R25, R26, R74, R75) -/

/-- FIRE is queued with the causes standing: a FIRE CLEAR of the own zone is withdrawn, the own bay joins its origin set,
and the 10 s resend restarts (R25, R26, R75). -/
def State.queueFire (s : State) : State :=
  let s1 := (s.withdraw (.fireClear, some s.zone)).queueNotice (.fire s.zone s.fire.contact s.fire.heat)
  { s1 with sched.fireResend := some 10000 }.joinZone s.zone s.bay

/-- FIRE CLEAR is queued: a FIRE of the own zone is withdrawn, the own bay leaves its origin set, and the resend stops
(R25, R26, R75). -/
def State.queueFireClear (s : State) : State :=
  let s1 := (s.withdraw (.fire, some s.zone)).queueNotice (.fireClear s.zone)
  { s1 with sched.fireResend := none }.leaveZone s.zone s.bay

/-- The causes of the local fire change (R74). -/
def State.setCauses (s : State) (contact heat : Bool) : State :=
  if s.fire.contact = contact ∧ s.fire.heat = heat then s
  else
    let s1 := { s with fire.contact := contact, fire.heat := heat }
    let s2 := if contact || heat then s1.queueFire else s1.queueFireClear
    s2.refreshFire.evalPulse

/-! ## The override map (R81 to R84) -/

/-- The effective override: OPEN if any origin holds OPEN, else CLOSE if any origin stands, as the target it gives
(R84). -/
def effectiveOverride (origins : List OverrideOrigin) : Option Nat :=
  if origins.any (·.opens) then some 1000 else if origins.isEmpty then none else some 0

/-- The override map changes, and a changed effective override is handed to every channel (R84). -/
def State.setOverrides (s : State) (origins : List OverrideOrigin) : State :=
  let s1 := { s with fire.overrides := origins }
  if effectiveOverride origins = effectiveOverride s.fire.overrides then s1
  else s1.eachChan (fun c s => s.handOver c (fun src => { src with override := effectiveOverride origins }))

/-- The map without the origin of a bay. -/
def withoutOverride (bay : Nat) (l : List OverrideOrigin) : List OverrideOrigin := l.filter (fun o => o.bay != bay)

/-- An origin is more fit to be removed than another: the greater age, among equal ages the higher bay (R81). -/
def OverrideOrigin.older (a b : OverrideOrigin) : Bool :=
  decide (b.age.getD 0 < a.age.getD 0) || (decide (a.age.getD 0 = b.age.getD 0) && decide (b.bay < a.bay))

/-- The oldest of some origins. -/
def oldestOverride : List OverrideOrigin → Option OverrideOrigin
  | [] => none
  | o :: rest =>
    match oldestOverride rest with
    | none => some o
    | some b => if o.older b then some o else some b

/-- The origin of a bay is replaced where it stands, with a new state and age. -/
def replaceOverride (bay : Nat) (opens : Bool) (age : Option Nat) (l : List OverrideOrigin) : List OverrideOrigin :=
  l.map (fun o => if o.bay = bay then { o with opens := opens, age := age } else o)

/-- The own origin is entered or replaced; in a full map it takes the place of the oldest origin (R81). -/
def enterOwnOverride (bay : Nat) (opens : Bool) (l : List OverrideOrigin) : List OverrideOrigin :=
  if l.any (fun o => o.bay == bay) then replaceOverride bay opens none l
  else
    let l1 :=
      if 4 ≤ l.length then
        match oldestOverride l with
        | some o => withoutOverride o.bay l
        | none => l
      else l
    l1 ++ [⟨bay, opens, none⟩]

/-- A peer's OPEN or CLOSE (R82): replaced, entered, or ignored in a full map. -/
def enterPeerOverride (bay : Nat) (opens : Bool) (l : List OverrideOrigin) : List OverrideOrigin :=
  if l.any (fun o => o.bay == bay) then replaceOverride bay opens (some 0) l
  else if 4 ≤ l.length then l
  else l ++ [⟨bay, opens, some 0⟩]

/-- A peer's OVERRIDE (R82). -/
def State.takeOverride (s : State) (bay : Nat) (k : KeyState) : State :=
  match k with
  | .open => s.setOverrides (enterPeerOverride bay true s.fire.overrides)
  | .close => s.setOverrides (enterPeerOverride bay false s.fire.overrides)
  | .released => s.setOverrides (withoutOverride bay s.fire.overrides)

/-- The own origin as the taken key position has it (R81). In a full map the removal of the oldest origin and the entry of the own one are
one change, recomputed once on the final map (R84; log entry 38, the model's choice). -/
def State.setOwnOverride (s : State) : State :=
  match s.fire.keyTaken with
  | .open => s.setOverrides (enterOwnOverride s.bay true s.fire.overrides)
  | .close => s.setOverrides (enterOwnOverride s.bay false s.fire.overrides)
  | .auto => s.setOverrides (withoutOverride s.bay s.fire.overrides)

end Sys2Proof.Machine
end

