-- ==== Sys2Proof/Machine/WeatherOps.lean ====
section
/-! DEFINITION. The ventilation map and the local key's source (R90, R91, R95 to R97), and the Weather Unit's shared
operations: the atrium weather record and the windward arithmetic (R60 to R69). -/

namespace Sys2Proof.Machine

open Sys2Proof

/-! ## LOCAL and VENTILATE (R90, R91, R95 to R97) -/

/-- The ventilation target V: the largest target of the map, nothing for an empty map (R97). -/
def ventTarget : List VentOrigin → Option Nat
  | [] => none
  | o :: rest => some (((ventTarget rest).map (max o.target)).getD o.target)

/-- The VENTILATE source of a channel: min(V, L) outside SERVICE mode (R90, R97). -/
def State.ventilateSource (s : State) (c : Chan) : Option Nat :=
  if s.sup.mode = .service then none else (ventTarget s.dem.ventMap).map (fun v => min v (s.chan c).wind.limit)

/-- A changed VENTILATE source is handed over (R97). -/
def State.handVentilate (s : State) (c : Chan) : State :=
  if s.ventilateSource c = (s.chan c).src.ventilate then s
  else s.handOver c (fun src => { src with ventilate := s.ventilateSource c })

/-- The ventilation map changes, and the VENTILATE source of every channel follows (R97). -/
def State.setVentMap (s : State) (m : List VentOrigin) : State :=
  { s with dem.ventMap := m }.eachChan (fun c s => s.handVentilate c)

/-- The LOCAL source: 1000 or 0 while the taken local key is OPEN or CLOSE, outside SERVICE mode (R90, R91). -/
def State.localSource (s : State) : Option Nat :=
  if s.sup.mode = .service then none
  else
    match s.dem.keyTaken with
    | .open => some 1000
    | .close => some 0
    | .auto => none

/-- A changed LOCAL source is handed over. -/
def State.handLocal (s : State) (c : Chan) : State :=
  if s.localSource = (s.chan c).src.localKey then s
  else s.handOver c (fun src => { src with localKey := s.localSource })

/-- The map without the origin of a bay. -/
def withoutVent (bay : Nat) (m : List VentOrigin) : List VentOrigin := m.filter (fun o => o.bay != bay)

/-- An origin of a bay replaced where it stands, with age 0. -/
def replaceVent (bay target : Nat) (m : List VentOrigin) : List VentOrigin :=
  m.map (fun o => if o.bay = bay then { o with target := target, age := 0 } else o)

/-- A peer's VENTILATE on the map (R95). -/
def peerVent (bay : Nat) (own : Bool) (target : Nat) (m : List VentOrigin) : List VentOrigin :=
  if own then
    if m.any (fun o => o.bay == bay) then replaceVent bay target m
    else if 4 ≤ m.length then m
    else m ++ [⟨bay, target, 0⟩]
  else withoutVent bay m

/-- An origin is more fit to be removed than another: the greater age, among equal ages the higher bay (R96). -/
def VentOrigin.older (a b : VentOrigin) : Bool :=
  decide (b.age < a.age) || (decide (a.age = b.age) && decide (b.bay < a.bay))

/-- The oldest of some origins. -/
def oldestVent : List VentOrigin → Option VentOrigin
  | [] => none
  | o :: rest =>
    match oldestVent rest with
    | none => some o
    | some b => if o.older b then some o else some b

/-- The own origin entered or replaced; in a full map it takes the place of the oldest origin (R96). -/
def enterOwnVent (bay target : Nat) (m : List VentOrigin) : List VentOrigin :=
  if m.any (fun o => o.bay == bay) then replaceVent bay target m
  else
    let m1 :=
      if 4 ≤ m.length then
        match oldestVent m with
        | some o => withoutVent o.bay m
        | none => m
      else m
    m1 ++ [⟨bay, target, 0⟩]

/-- Whether a zone set of the configuration includes the own zone (R96). -/
def State.ventsOwnZone (s : State) : Bool := (ofBits4 s.fields.ventZones).get s.zone

/-- VENTILATE is queued with the demand of the latest sample; the own origin takes it, where it exists (R32, R96). In a full map the removal
of the oldest origin and the entry of the own one are one change of the map (R97; log entry 38, the model's choice). -/
def State.queueVentilate (s : State) : State :=
  let s1 := s.queueNotice (.ventilate (ofBits4 s.fields.ventZones) s.dem.sample)
  let s2 := { s1 with sched.ventilatePeriod := some 60000, sched.lastVentilate := some s.dem.sample }
  if s.ventsOwnZone then s2.setVentMap (enterOwnVent s.bay s.dem.sample s.dem.ventMap) else s2

/-- A peer's VENTILATE (R95). -/
def State.takeVentilate (s : State) (bay : Nat) (zones : Four Bool) (target : Nat) : State :=
  s.setVentMap (peerVent bay (zones.get s.zone) target s.dem.ventMap)

/-! ## The atrium weather record (R60 to R63) -/

/-- The participating reports, each with its bay: the own report of a sensor station and every offered peer report
(R60). -/
def State.reports (s : State) : List (Nat × Report) :=
  (if s.sensorStation then [(s.bay, s.wx.own)] else []) ++
    s.peer.entries.filterMap (fun e =>
      match e.weather with
      | some h => if h.offered then some (e.bay, h.report) else none
      | none => none)

/-- One report ranks before another: the larger mean, among equal means the lower bay (R61). -/
def ranksBefore (a b : Nat × Nat) : Bool :=
  decide (b.2 < a.2) || (decide (a.2 = b.2) && decide (a.1 < b.1))

/-- The first in the ranking, among reports given as bay, mean and a value carried along. -/
def firstRanked : List (Nat × Nat × Nat) → Option (Nat × Nat × Nat)
  | [] => none
  | a :: rest =>
    match firstRanked rest with
    | none => some a
    | some b => if ranksBefore (b.1, b.2.1) (a.1, a.2.1) then some b else some a

/-- The reports that carry a mean: bay, mean, and the mean again. -/
def meanReports (l : List (Nat × Report)) : List (Nat × Nat × Nat) :=
  l.filterMap (fun e => e.2.mean.map (fun m => (e.1, m, m)))

/-- The reports that carry a mean and a direction: bay, mean, direction. -/
def directedReports (l : List (Nat × Report)) : List (Nat × Nat × Nat) :=
  l.filterMap (fun e =>
    match e.2.mean, e.2.direction with
    | some m, some d => some (e.1, m, d)
    | _, _ => none)

/-- The largest gust of some reports. -/
def largestGust (l : List (Nat × Report)) : Option Nat :=
  (l.filterMap (fun e => e.2.gust)).foldl (fun acc g => some (max g (acc.getD 0))) none

/-- The clear level of the storm flag: W_storm − W_hys, or 1 where that is below 1 (R63). -/
def State.stormClearLevel (s : State) : Nat := max 1 (s.fields.wStorm - s.fields.wHys)

/-- The storm flag and its clear timer at a recombination with gust G (R63). -/
def State.stormAfter (s : State) (g : Nat) : Bool × Timer :=
  if s.wx.atrium.storm then
    if g < s.stormClearLevel then
      (true, if s.wx.atrium.stormTimer.isSome then s.wx.atrium.stormTimer else some 60000)
    else (true, none)
  else (decide (s.fields.wStorm ≤ g), none)

/-- The record that a recombination forms (R61 to R63). -/
def State.combined (s : State) : Atrium :=
  let l := s.reports
  let rain := l.any (fun e => decide (e.2.rain = some true))
  match firstRanked (meanReports l) with
  | none => ⟨0, none, 0, rain, true, true, none⟩
  | some (_, w, _) =>
    let g := (largestGust l).getD w
    let st := s.stormAfter g
    ⟨w, (firstRanked (directedReports l)).map (fun e => e.2.2), g, rain, false, st.1, st.2⟩

/-! ## The windward arithmetic (R65 to R68) -/

/-- The angle between wind and facing, 0 to 180 (R65). -/
def windAngle (d facing : Nat) : Nat :=
  let a := (((d : Int) - (facing : Int)) % 360).toNat
  if 180 < a then 360 - a else a

/-- The 19 factors of R66. -/
def windFactors : List Nat :=
  [256, 255, 252, 247, 241, 232, 222, 210, 196, 181, 165, 147, 128, 108, 88, 66, 44, 22, 0]

/-- The windward component of a wind for a facing (R65, R66). -/
def windward (w d facing : Nat) : Nat :=
  let a := windAngle d facing
  if 90 < a then 0 else w * windFactors.getD ((a + 2) / 5) 0 / 256

/-- The windward component of a channel under a record (R62, R66). -/
def channelWind (r : Atrium) (facing : Nat) : Nat :=
  if r.unknown then 0
  else
    match r.d with
    | some d => windward r.w d facing
    | none => r.w

/-- The ventilation limit from Wn and W (R67). -/
def ventLimit (f : Fields) (wn w : Nat) : Nat :=
  let weff := max wn (w / 2)
  if weff ≤ f.wvLo then 1000
  else if f.wvHi ≤ weff then 0
  else 1000 * (f.wvHi - weff) / (f.wvHi - f.wvLo)

/-- The ventilation limit of a channel under a record (R62, R67). -/
def channelLimit (f : Fields) (r : Atrium) (wn : Nat) : Nat := if r.unknown then 0 else ventLimit f wn r.w

/-- The fire windward block of a channel after a recomputation (R68). -/
def blockAfter (f : Fields) (outcome : LoadOutcome) (r : Atrium) (block : Bool) (wn : Nat) : Bool :=
  if r.unknown || r.d.isNone || decide (outcome = .lost) then false
  else if block then decide (f.wf - f.wHys ≤ wn)
  else decide (f.wf ≤ wn)

/-- The results of one channel under a record. -/
def State.windAfter (s : State) (r : Atrium) (c : Chan) : ChWind :=
  let wn := channelWind r (s.chFields c).facing
  ⟨wn, channelLimit s.fields r wn, blockAfter s.fields s.cfg.outcome r (s.chan c).wind.block wn⟩

/-- The windward arithmetic of one channel, and its changed results handed on: L to the Demand Unit, the block to the Fire
Unit (R69). -/
def State.refreshWind (s : State) (c : Chan) : State :=
  if (s.chan c).state = .absent then s
  else ((s.modChan c (fun k => { k with wind := s.windAfter s.wx.atrium c })).handVentilate c).handFire c

/-- The WEATHER source is present while rain, storm or unknown stands (R64). -/
def Atrium.closes (r : Atrium) : Bool := r.rain || r.storm || r.unknown

/-- A changed WEATHER source is handed over (R64). -/
def State.handWeather (s : State) (c : Chan) : State :=
  if (s.chan c).src.weather = s.wx.atrium.closes then s
  else s.handOver c (fun src => { src with weather := s.wx.atrium.closes })

/-- The record changes: WEATHER_UNKNOWN follows the unknown flag, every channel's wind results are recomputed and handed on,
and the WEATHER source follows (R60, R62, R64, R69). -/
def State.setAtrium (s : State) (r : Atrium) : State :=
  let s1 := { s with wx.atrium := r }.faultIf 10 r.unknown
  s1.eachChan (fun c s => (s.refreshWind c).handWeather c)

/-- A recombination (R60). -/
def State.recombine (s : State) : State := s.setAtrium s.combined

/-- The own report changes: a recombination at each change of a field's value or presence (R55, R60). A gate end that changes the mean, the
gust and the direction at once is one change, and gives one recombination (log entry 37, the model's choice). -/
def State.setOwnReport (s : State) (r : Report) : State :=
  if r = s.wx.own then s else { s with wx.own := r }.recombine

/-! ## The heat detector (R57 to R59) -/

/-- The HEAT cause follows the heat alarm (R59, R74). -/
def State.setHeatAlarm (s : State) (alarm : Bool) : State :=
  { s with wx.heatAlarm := alarm }.setCauses s.fire.contact alarm

end Sys2Proof.Machine
end

