-- ==== Sys2Proof/Machine/LineOps.lean ====
section
/-! DEFINITION. The Line Unit's shared operations: the end of an attempt, the discard, long dominant spans, the taking of
characters, and the delivery of a notice (R3 to R13, R17, R23, R36 to R40). -/

namespace Sys2Proof.Machine

open Sys2Proof

/-! ## Times of the line, in units of 1/96000 s -/

/-- Some bit times in units of the line. -/
def bitTimes (n : Nat) : Nat := 5 * n

/-- Some milliseconds in units of the line. -/
def lineMs (n : Nat) : Nat := 96 * n

/-- The dominant span in progress has reached 11 bit times (R6). -/
def State.longSpan (s : State) : Bool := s.line.spanLong

/-- The length of the dominant span in progress as counted so far; a reading of the span timer is never below it. -/
def State.spanAtLeast (s : State) (n : Nat) : Nat := max (s.line.span.getD 0) n

/-- LINE_STUCK stands in the fault set (R8). -/
def State.lineStuckStands (s : State) : Bool := s.sup.faults.contains 1

/-! ## Levels of the line (R1, R2) -/

/-- What the line is: dominant while at least one station drives it, recessive while none does (R1). -/
def lineDominant (own others : Bool) : Bool := own || others

/-- The levels of one character, one for each of 10 bit times, true being dominant: a dominant start bit, 8 data bits, the least
significant first, with a 0 dominant, and a recessive stop bit (R2). -/
def lineChar (b : Byte) : List Bool := true :: ((List.range 8).map (fun i => !b.getLsbD i) ++ [false])

/-- The levels of the characters of a notice, sent back to back (R2). -/
def lineChars (frame : List Byte) : List Bool := frame.flatMap lineChar

/-- What the receiver takes from the samples at the middle of the 10 bit times of a character (R2): nothing where the first reads
recessive, a glitch; else the character, and whether its stop bit read recessive. These are the operands of CHARACTER_END. -/
def sampledChar : List Bool → Option (Byte × Bool)
  | [true, a, b, c, d, e, f, g, h, stop] =>
    some (BitVec.ofNat 8 ((!a).toNat + 2 * (!b).toNat + 4 * (!c).toNat + 8 * (!d).toNat + 16 * (!e).toNat + 32 * (!f).toNat +
      64 * (!g).toNat + 128 * (!h).toNat), !stop)
  | _ => none

/-- What the terminal does, bit by bit, while it sends some levels and the line reads others at the middle of each bit: it drives every
dominant bit and is released in every recessive one, up to the bit that reads otherwise than sent, and is released from that reading on
(R1, R6, R10, R11). Bits that have not been read yet are as sent. -/
def sentLevels : List Bool → List Bool → List Bool
  | [], _ => []
  | d :: sent, [] => d :: sent
  | d :: sent, r :: read => d :: (if d = r then sentLevels sent read else sent.map (fun _ => false))

/-- The terminal drives the line dominant in a bit time, counted from 0 at the beginning of what it drives, where the line has read some
levels since (R1): in each dominant bit of a notice, for the 30 bit times of a break, for the 600 ms of a pulse, and at no other time. -/
def State.drives (s : State) (read : List Bool) (bit : Nat) : Bool :=
  match s.line.drive with
  | .released => false
  | .notice => (s.line.flight.map (fun f => (sentLevels (lineChars f.frame) read).getD bit false)).getD false
  | .breakPulse => decide (bit < 30)
  | .holdDown => decide (bitTimes bit < lineMs 600)

/-! ## The receiver -/

/-- The line reads recessive: no dominant span is in progress. -/
def State.readRecessive (s : State) : State := { s with line.span := none, line.spanLong := false }

/-- The receiver enters RECOVERING with its recessive count at 0 (R4). -/
def State.toRecovering (s : State) : State :=
  { s with line.receiver := .recovering, line.recessive := 0, line.breakArmed := false, line.breakAtEnd := false }

/-- The receiver returns to IDLE, with the line recessive, and the idle count begins (R3, R4, R9). -/
def State.toIdle (s : State) : State :=
  { s.readRecessive with line.receiver := .idle, line.recessive := 0, line.breakArmed := false, line.breakAtEnd := false }

/-- A notice being received is discarded: the discard count rises, up to 255, and the receiver enters RECOVERING
(R4, R16). -/
def State.discardNotice (s : State) : State :=
  { s with line.discard := min 255 (s.line.discard + 1) }.toRecovering

/-! ## The end of an attempt (R12) -/

/-- The terminal is released where it drives a notice. -/
def LineDrive.afterNotice : LineDrive → LineDrive
  | .notice => .released
  | d => d

/-- The attempt in flight has ended. -/
def State.endFlight (s : State) : State :=
  { s with line.flight := none, line.drive := s.line.drive.afterNotice }

/-- The failed-attempt count of the entry of a key rises by 1. -/
def failEntry (key : Kind × Option Zone) (e : QueueEntry) : QueueEntry :=
  if e.notice.key = key then { e with failed := e.failed + 1 } else e

/-- An entry is given up: a MOTION or ROUTINE notice whose count has reached 16 (R12). -/
def QueueEntry.givenUp (e : QueueEntry) : Bool :=
  decide (e.notice.noticeClass ≠ .alarm) && decide (16 ≤ e.failed)

/-- An outgoing notice is dropped: it leaves the queue, the dropped count rises, up to 255, and a dropped CLAIM ends the
claim in QUEUED (R12, R16, R116). -/
def State.dropEntry (s : State) (key : Kind × Option Zone) : State :=
  let s1 := { s with
    line.queue := s.line.queue.filter (fun e => !decide (e.notice.key = key))
    line.dropped := min 255 (s.line.dropped + 1) }
  if key = (.claim, none) ∧ s.bud.own.state = .queued then { s1 with bud.own := OwnClaim.none } else s1

/-- A CLAIM whose attempt has failed while the isolation condition stands is withdrawn, without a drop: the station then sends none
(R127; log entry 50, the model's choice). -/
def State.withdrawIsolated (s : State) (key : Kind × Option Zone) : State :=
  if s.line.isolation && decide (key = (.claim, none)) then s.withdraw key else s

/-- The attempt in flight ends as a failed attempt (R12). -/
def State.failAttempt (s : State) : State :=
  match s.line.flight with
  | none => s
  | some f =>
    let q := s.line.queue.map (failEntry f.content.key)
    let s1 := { s with line.queue := q }.endFlight
    let s2 := if q.any (fun e => decide (e.notice.key = f.content.key) && e.givenUp) then s1.dropEntry f.content.key else s1
    s2.withdrawIsolated f.content.key

/-- An echo fault: the attempt ends as failed, the receiver recovers, the run rises, and at 8 the isolation condition is set
(R11, R17). -/
def State.failEcho (s : State) : State :=
  let run := min 8 (s.line.echoRun + 1)
  let s1 := { s.failAttempt with line.echoRun := run }.toRecovering
  if run = 8 then s1.setIsolation else s1

/-- The values a HEALTH notice carried are subtracted from the counters (R16). -/
def State.subtractHealth (s : State) (h : HealthContent) : State :=
  { s with
    line.valid := s.line.valid - h.valid
    line.discard := s.line.discard - h.discard
    line.dropped := s.line.dropped - h.dropped }

/-- The own item is placed, and a claim in QUEUED whose content it is moves to SETTLING with 100 ms to run (R113,
R116). -/
def State.placeOwnItem (s : State) (set : Four Bool) (inrush : Nat) (fire live : Bool) : State :=
  let s1 := s.placeItem set inrush fire
  if live && decide (s.bud.own.state = .queued) then
    { s1 with bud.own.state := .settling, bud.settleTimer := some 100 }
  else s1

/-- The report of a clean echo to the block that queued the notice (R24). -/
def State.reportCompletion (s : State) (f : Flight) : State :=
  match f.content with
  | .health h => s.subtractHealth h
  | .claim set inrush fire => s.placeOwnItem set inrush fire (!f.replaced)
  | _ => s

/-- The queue after a clean echo: the entry leaves it, or stays with its new content and its count at 0 where it was
replaced in flight (R12). -/
def queueAfterEcho (f : Flight) (q : List QueueEntry) : List QueueEntry :=
  if f.replaced then q.map (fun e => if e.notice.key = f.content.key then { e with failed := 0 } else e)
  else q.filter (fun e => !decide (e.notice.key = f.content.key))

/-- A clean echo of the notice in flight (R12). -/
def State.echoClean (s : State) (f : Flight) : State :=
  (({ s with line.queue := queueAfterEcho f s.line.queue, line.echoRun := 0 }.endFlight.toIdle).clearIsolation).reportCompletion f

/-! ## Long dominant spans (R6 to R8) -/

/-- What a dominant span does as it reaches 11 bit times (R6): an own attempt fails, a notice being received is cut, the
receiver is in RECOVERING. -/
def State.cutAtSpan (s : State) : State :=
  if s.line.flight.isSome then s.failAttempt.toRecovering
  else
    match s.line.receiver with
    | .receiving _ _ => s.discardNotice
    | _ => s.toRecovering

/-- The dominant span reaches 11 bit times, once (R6). -/
def State.reachSpan11 (s : State) : State :=
  if s.longSpan then s
  else { s.cutAtSpan with line.span := some (s.spanAtLeast (bitTimes 11)), line.spanLong := true }

/-- The dominant span reaches 2000 ms, once: LINE_STUCK and the isolation condition are set (R8). -/
def State.reachStuck (s : State) : State :=
  let s1 := s.reachSpan11
  { s1.addFault 1 with line.span := some (s1.spanAtLeast (lineMs 2000)) }.setIsolation

/-- The dominant span is over: the receiver recovers from its release on (R6, R7). -/
def State.endSpan (s : State) : State := s.toRecovering.readRecessive

/-- A dominant span of a length, in units of the line, is released and classified (R7, R8): a stuck line ends LINE_STUCK, a
hold-down goes to the Fire Unit, a break has no further effect, and a span under 11 bit times is part of a character. -/
def State.releaseSpan (s : State) (len : Nat) : State :=
  let len := s.spanAtLeast len
  if !s.longSpan && decide (len < bitTimes 11) then s.readRecessive
  else
    let s1 := s.reachSpan11
    if s1.lineStuckStands then s1.endSpan.removeFault 1
    else if lineMs 2000 ≤ len then s1.reachStuck.endSpan.removeFault 1
    else if lineMs 400 ≤ len then s1.endSpan.startGeneral
    else s1.endSpan

/-! ## The Peer View (R37 to R40) -/

/-- A new entry of a bay: its key and age alone. -/
def PeerEntry.new (bay : Nat) : PeerEntry := ⟨bay, 0, true, none, none, none⟩

/-- An entry put into the map in ascending order of bay. -/
def insertEntry (e : PeerEntry) : List PeerEntry → List PeerEntry
  | [] => [e]
  | a :: rest => if e.bay < a.bay then e :: a :: rest else a :: insertEntry e rest

/-- The entry of a bay is created or refreshed, and a part of it taken (R37). -/
def refreshPeer (bay : Nat) (part : PeerEntry → PeerEntry) (l : List PeerEntry) : List PeerEntry :=
  if l.any (fun e => e.bay == bay) then
    l.map (fun e => if e.bay = bay then part { e with age := 0, fresh := true } else e)
  else insertEntry (part (PeerEntry.new bay)) l

/-- The Peer View takes a valid notice of a bay. -/
def State.takePeer (s : State) (bay : Nat) (part : PeerEntry → PeerEntry) : State :=
  { s with peer.entries := refreshPeer bay part s.peer.entries }

/-- A valid notice of another bay is delivered to the Peer View and to the owner of its kind; one that fails the content test
only refreshes the entry (R22, R23). The Peer View takes the notice first: a re-check that a CLAIM causes reads a running current in which
the held current of its sender counts again, also where the sender was stale (R5, R45, R121; log entry 61, the model's choice). -/
def State.deliver (s : State) (bay : Nat) (n : Option Notice) : State :=
  match n with
  | some (.status c) => s.takePeer bay (fun e => { e with status := some c })
  | some (.weather r) => (s.takePeer bay (fun e => { e with weather := some ⟨r, 0, true⟩ })).recombine
  | some (.health h) => s.takePeer bay (fun e => { e with health := some h })
  | some (.fire z _ _) => (s.takePeer bay id).takeFire bay z
  | some (.fireClear z) => (s.takePeer bay id).takeFireClear bay z
  | some (.override k) => (s.takePeer bay id).takeOverride bay k
  | some (.claim set inrush fire) => (s.takePeer bay id).takeClaim bay set inrush fire
  | some (.ventilate zones t) => (s.takePeer bay id).takeVentilate bay zones t
  | none => s.takePeer bay id

/-- A notice under the own bay that is not the own echo: BAY_CONFLICT, and its timer at 60 s (R5, R44). -/
def State.bayConflict (s : State) : State := { s.addFault 2 with peer.conflictTimer := some 60000 }

/-! ## Characters (R2 to R5) -/

/-- A notice completes: its check is tested, and it is the own echo, a notice under the own bay, or one of another bay,
counted, up to 65535, and delivered (R4, R5). What an attempt in flight comes to is told by its own events, so its echo has
no effect here. -/
def State.completeNotice (s : State) (chars : List Byte) : State :=
  if s.line.flight.isSome then s.toIdle
  else if !checkAgrees chars then s.discardNotice
  else
    let s1 := s.toIdle
    if noticeBay chars = s.bay then s1.bayConflict
    else { s1 with line.valid := min 65535 (s1.line.valid + 1) }.deliver (noticeBay chars) (noticeContent chars)

/-- The line at the end of a character (R2, R6): with a recessive stop bit no dominant span is in progress. In an own notice, a character
that is not the one sent holds a bit that read otherwise than sent: the terminal has released the line at that reading, and the attempt
ends by the command of its end. -/
def State.readChar (s : State) (taken : Nat) (char : Byte) (stopRecessive : Bool) : State :=
  let s1 := if stopRecessive then s.readRecessive else s
  match s.line.flight with
  | some f =>
    if stopRecessive && decide (f.frame[taken]? = some char) then s1 else { s1 with line.drive := s.line.drive.afterNotice }
  | none => s1

/-- A character ends while a notice is assembled: it is tested (R4), completes the notice (R5), or is kept; a break that was armed
before may begin at this end, and the test of R13 is made. A break armed in STARTING, where none begins (R1), stays armed at every later
end of a character of the notice (log entry 56, the model's choice). An error in the own echo is left to its own event. -/
def State.takeChar (s : State) (char : Byte) (stopRecessive : Bool) : State :=
  match s.line.receiver with
  | .receiving chars _ =>
    let now := chars ++ [char]
    let s1 := s.readChar chars.length char stopRecessive
    if !stopRecessive || !charsAccepted now then
      if s.line.flight.isSome then { s1 with line.receiver := .receiving chars false } else s1.discardNotice
    else if noticeComplete now then s1.completeNotice now
    else { s1 with line.receiver := .receiving now false, line.breakAtEnd := s.line.breakArmed }.testBreak
  | _ => s

/-- Some characters end one after another, their stop bits recessive; the receiver stops taking them where it leaves
RECEIVING. -/
def State.takeChars (s : State) : List Byte → State
  | [] => s
  | b :: rest => (s.takeChar b true).takeChars rest

end Sys2Proof.Machine
end

