-- ==== Sys2Proof/Machine/VetoOps.lean ====
section
/-! DEFINITION. The vetoes: the limit veto of a channel (R93, R104, R105, R155), the supply veto (R94, R145), and the
conditions behind them, the throttle (R150), the thermal hold (R153) and the programming that a low supply cuts short
(R177). -/

namespace Sys2Proof.Machine

open Sys2Proof

/-! ## The limit veto (R93, R155, R156) -/

/-- A channel that waits for its due reference returns to IDLE, leaves its claim, and takes its winner at rest (R104). -/
def State.withdrawReference (s : State) (c : Chan) (w : Winner) : State :=
  ((s.modChan c Channel.toRest).leaveClaim c).takeAtRest c w

/-- Reference runs are vetoed on a channel (R93): a waiting reference is withdrawn, or replaced on an UNREFERENCED channel as
R107 and R156 have it; a run is stopped (R105); otherwise the recomputed winner is taken. A referenced channel that waits for its due
reference with WEATHER winning is withdrawn too (R104, R151 row 5), and the ORDINARY closing is formed anew, where R151 row 4 and R156
would keep it WAITING in its claim (log entry 57, the model's choice). -/
def State.vetoReference (s : State) (c : Chan) : State :=
  match (s.chan c).state, (s.chan c).dem.movement.map Movement.kind with
  | .waiting, some .reference =>
    if (s.chan c).drv.referenced then (s.setWinner c).withdrawReference c (s.winner c)
    else (s.setWinner c).takeWaiting c (s.winner c)
  | .referencing, _ => (s.setWinner c).stopReference c (s.winner c)
  | _, _ => s.recompute c

/-- The limit veto of a channel as its conditions have it: throttled, the thermal hold, or both (R155). -/
def State.limitVeto (s : State) (c : Chan) : Bool := (s.chan c).lim.throttled || s.lim.hold

/-- The limit veto of a channel is evaluated, and its start or end handed to the Demand Unit (R155). Under the supply veto its
start waits for the end of that veto. -/
def State.evalLimit (s : State) (c : Chan) : State :=
  if (s.chan c).state = .absent || s.limitVeto c == (s.chan c).lim.veto then s
  else
    let s1 := s.modChan c (fun k => { k with lim.veto := s.limitVeto c })
    if s.limitVeto c then (if s1.supplyVeto then s1 else s1.vetoReference c)
    else (s1.recompute c).testReference c

/-- The run ticks at which a channel is throttled (R150). -/
def Fields.threshold (f : Fields) : Nat := f.dutyWindow * 10 * f.duty / 100

/-- A duty window in ms. -/
def Fields.windowMs (f : Fields) : Nat := f.dutyWindow * 1000

/-- A channel becomes throttled: its window stops, its tick timer stops at 0, and the throttle timer starts (R150). -/
def Channel.throttle (k : Channel) (f : Fields) : Channel :=
  { k with
    lim.window := none
    lim.tickAcc := 0
    lim.throttled := true
    lim.throttleTimer := some (f.throttleFactor * f.windowMs) }

/-- A new duty window: the run counter and the tick timer at 0 (R148, R152). -/
def Channel.newWindow (k : Channel) (f : Fields) : Channel :=
  { k with lim.window := some f.windowMs, lim.tickAcc := 0, lim.runCounter := 0 }

/-- The thermal hold begins: its timer at 60 s, DRIVER_HOT, and the limit veto of every channel (R153). -/
def State.startHold (s : State) : State :=
  let s1 := { s with lim.hold := true, lim.holdTimer := some 60000 }.addFault 14
  s1.eachChan (fun c s => s.evalLimit c)

/-! ## The supply veto (R94, R145) -/

/-- At the start of the supply veto a channel's standing demand is recorded, its winner becomes none, and a driven channel is
stopped to WAITING with its movement in hand (R94, R145). -/
def Channel.suspend (k : Channel) : Channel :=
  if k.state = .absent then k
  else
    let k1 := if k.driven then { k.release with state := .waiting } else k
    { k1 with dem.standing := some k.dem.win, dem.win := none }

/-- The supply veto begins: every channel is suspended, the live claim is dropped and a CLAIM that waits is withdrawn (R94, R125). -/
def State.beginSupplyVeto (s : State) : State :=
  (s.eachChan (fun c s => s.modChan c Channel.suspend)).giveUpClaims

/-- A retry held over is made where the channel is FAULTED with OVERRIDE or FIRE winning with a position target (R141). -/
def State.heldRetry (s : State) (c : Chan) : State :=
  if (s.chan c).drv.retryHeld && decide ((s.chan c).state = .faulted) && retryWinner (s.chan c).dem.win then
    s.retryChan c
  else s

/-- At the end of the supply veto a channel whose winner equals its standing demand goes on, and another takes the difference
as a change; a limit veto that began meanwhile is taken, or a due reference tested (R94, R104). -/
def State.resume (s : State) (c : Chan) : State :=
  if (s.chan c).state = .absent then s
  else
    let w := s.winner c
    let s1 := s.modChan c (fun k => { k with dem.win := w, dem.standing := none })
    let s2 := if (s.chan c).dem.standing = some w then s1.heldRetry c else s1.take c w
    let s3 := s2.modChan c (fun k => { k with drv.retryHeld := false })
    if (s3.chan c).lim.veto then s3.vetoReference c else s3.testReference c

/-- The supply veto ends on every channel. -/
def State.endSupplyVeto (s : State) : State := s.eachChan (fun c s => s.resume c)

/-! ## Programming cut short (R177) -/

/-- The word being written is left so that it decodes as uncorrectable; what its data then reads is free (log entry 5). -/
def State.tearWord (s : State) (i : Nat) : State :=
  { s with
    cfg.store := writeStore s.cfg.store i (StoreWord.torn s.free)
    free := s.free + 1 }

/-- Programming, where it is in progress, ends before its end: the word being written is torn. -/
def State.abortProgramming (s : State) : State :=
  match s.svc.programming with
  | some i => { s.tearWord i with svc.programming := none, svc.programTimer := none }
  | none => s

end Sys2Proof.Machine
end

