-- ==== Sys2Proof/Machine/BudgetCommands.lean ====
section
/-! DEFINITION. The commands of the start budget (R112, R117, R127). -/

namespace Sys2Proof.Machine

open Sys2Proof

/-- SETTLE_EXPIRY (R117): the decision on the claim in SETTLING. -/
def execSettleExpiry (s : State) : Host.Outcome State Fault Refusal :=
  .next
    (if decide (s.bud.own.state = .settling) && s.bud.settleTimer.isSome then s.decideClaim.finish s else s)

/-- ITEM_AGE_OUT (R112): an item that arrived at the same instant, of age 0, has not aged out. -/
def execItemAgeOut (bay : Nat) (s : State) : Host.Outcome State Fault Refusal :=
  .next (if s.bud.items.any (fun i => i.bay == bay && i.age != 0) then (s.removeBay bay).finish s else s)

/-- ISOLATED_START (R127): a start is allowed, and stays so until a channel takes it. -/
def execIsolatedStart (s : State) : Host.Outcome State Fault Refusal :=
  .next
    (if s.bud.isoTimer.isSome then { s with bud.isoTimer := none, bud.isoOpen := true }.finish s else s)

end Sys2Proof.Machine
end

