-- ==== Sys2Proof/Machine/DriveCommands.lean ====
section
/-! DEFINITION. The commands of the channel drive (R103, R131 to R146). -/

namespace Sys2Proof.Machine

open Sys2Proof

/-! ## Pulses (R131, R132) -/

/-- The direction in which a pulse moves the count: the direction driven, or the direction last driven while the coast window is
open (R131). -/
def Channel.pulseDir (k : Channel) : Option Dir :=
  if k.driven then k.drv.dir else if k.drv.coast.isSome then k.drv.lastDir else none

/-- A count moved by one pulse, within 0 to the stroke (R131). -/
def movedCount (stroke count : Nat) : Option Dir → Nat
  | some .opening => if count < stroke then count + 1 else count
  | some .closing => count - 1
  | none => count

/-- A channel's count after a pulse; the no-pulse timer, where it runs, restarts at 500 ms (R131, R138). -/
def Channel.countPulse (k : Channel) (stroke : Nat) : Channel :=
  { k with
    drv.count := movedCount stroke k.drv.count k.pulseDir
    drv.noPulseTimer := k.drv.noPulseTimer.map (fun _ => 500) }

/-- What a met stop condition does. -/
inductive StopKind where
  | none | atTarget | openEnd
  deriving DecidableEq, Repr, Inhabited

/-- The stop condition of a RUNNING movement at its count (R132). -/
def Channel.stopMet (k : Channel) (stroke : Nat) (known : Bool) : StopKind :=
  match k.drv.dir, k.dem.movement with
  | some .opening, some m =>
    if m.target < 1000 then (if upperStop stroke m.target ≤ k.drv.count then .atTarget else .none)
    else if k.drv.referenced && known && decide (stroke ≤ k.drv.count) then .openEnd
    else .none
  | some .closing, some m =>
    if 0 < m.target ∧ k.drv.count ≤ lowerStop stroke m.target then .atTarget else .none
  | _, _ => .none

/-- The stop condition of a RUNNING channel is tested after a change of its count (R132, R133, R136). -/
def State.testStop (s : State) (c : Chan) : State :=
  if (s.chan c).state = .running then
    match (s.chan c).stopMet (s.stroke c) (s.strokeKnown c) with
    | .none => s
    | .atTarget => (s.complete c none).settleChan c
    | .openEnd => s.reachEnd c .openEnd
  else s

/-- HALL_PULSE (R131, R132). A pulse that does not move the count tests nothing. -/
def execHallPulse (c : Chan) (s : State) : Host.Outcome State Fault Refusal :=
  let s1 := s.modChan c (fun k => k.countPulse (s.stroke c))
  .next (if (s1.chan c).drv.count = (s.chan c).drv.count then s1 else (s1.testStop c).finish s)

/-- COAST_WINDOW_CLOSE (R131). -/
def execCoastWindowClose (c : Chan) (s : State) : Host.Outcome State Fault Refusal :=
  .next (s.modChan c (fun k => { k with drv.coast := none }))

/-! ## Current (R134) -/

/-- INRUSH_MASK_END (R134): the stall and open-load timers begin to measure, the no-pulse timer starts at 500 ms, and the reports
begin. -/
def execInrushMaskEnd (c : Chan) (s : State) : Host.Outcome State Fault Refusal :=
  .next
    (if (s.chan c).driven && (s.chan c).drv.inrushMask.isSome then
       s.modChan c (fun k =>
         { k with
           drv.inrushMask := none
           drv.stallTimer := some 200
           drv.openLoadTimer := some 200
           drv.noPulseTimer := some 500
           drv.reportTimer := some 100 })
     else s)

/-- CURRENT_REPORT (R134): the mean measured current, saturating at 65535. -/
def execCurrentReport (c : Chan) (mean : Nat) (s : State) : Host.Outcome State Fault Refusal :=
  .next
    (if (s.chan c).driven && (s.chan c).drv.reportTimer.isSome then
       (s.modChan c (fun k => { k with drv.current := some (min 65535 mean), drv.reportTimer := some 100 })).finish s
     else s)

/-! ## Ends and faults (R135 to R140) -/

/-- What a stall is (R135): a completed reference, an end, or a STALL fault. -/
inductive StallKind where
  | reference
  | atEnd (e : Extreme)
  | jammed
  deriving DecidableEq, Repr, Inhabited

/-- The classification of a stall by the movement and the count (R135). -/
def Channel.stallKind (k : Channel) (stroke : Nat) (known : Bool) : StallKind :=
  if k.state = .referencing then .reference
  else
    match k.drv.dir with
    | some .opening =>
      if stroke - stroke / 20 ≤ k.drv.count || !k.drv.referenced || !known then .atEnd .openEnd else .jammed
    | _ =>
      if k.drv.count ≤ stroke / 20 || !k.drv.referenced || !known then .atEnd .closedEnd else .jammed

/-- A stall of a driven channel (R135, R136). -/
def State.takeStall (s : State) (c : Chan) : State :=
  match (s.chan c).stallKind (s.stroke c) (s.strokeKnown c) with
  | .reference => s.reachReference c
  | .atEnd e => s.reachEnd c e
  | .jammed => s.channelFault c .stall

/-- STALL (R135). -/
def execStall (c : Chan) (s : State) : Host.Outcome State Fault Refusal :=
  .next (if (s.chan c).driven && (s.chan c).drv.stallTimer.isSome then (s.takeStall c).finish s else s)

/-- OVERCURRENT (R137). -/
def execOvercurrent (c : Chan) (s : State) : Host.Outcome State Fault Refusal :=
  .next
    (if (s.chan c).driven && (s.chan c).drv.overcurrentTimer.isSome then (s.channelFault c .overcurrent).finish s
     else s)

/-- NO_PULSE (R138). -/
def execNoPulse (c : Chan) (s : State) : Host.Outcome State Fault Refusal :=
  .next
    (if (s.chan c).driven && (s.chan c).drv.noPulseTimer.isSome then (s.channelFault c .noPulse).finish s else s)

/-- OPEN_LOAD (R139). -/
def execOpenLoad (c : Chan) (s : State) : Host.Outcome State Fault Refusal :=
  .next
    (if (s.chan c).driven && (s.chan c).drv.openLoadTimer.isSome then (s.channelFault c .openLoad).finish s else s)

/-! ## Retries, pauses and jogs (R102, R141, R144, R146) -/

/-- RETRY_EXPIRY (R141): under the supply veto the retry is held over. -/
def execRetryExpiry (c : Chan) (s : State) : Host.Outcome State Fault Refusal :=
  .next
    (if decide ((s.chan c).state = .faulted) && (s.chan c).drv.retryTimer.isSome then
       if s.supplyVeto then s.modChan c (fun k => { k with drv.retryTimer := none, drv.retryHeld := true })
       else (s.retryChan c).finish s
     else s)

/-- The demand that a pause's end takes: the pending target, with the source that wins, or that won as the supply veto began
(R94, R102). -/
def State.pauseWinner (s : State) (c : Chan) : Winner :=
  let w := if s.supplyVeto then ((s.chan c).dem.standing).join else (s.chan c).dem.win
  match w, (s.chan c).dem.pending with
  | some (src, _), some t => some (src, t)
  | _, _ => none

/-- The reversal pause ends: the rest state, and the pending target taken there (R102, R144). Under the supply veto a due reference does
not start (R104), and the pending target of LOCAL, VENTILATE or JOG forms the ORDINARY movement (log entry 48). -/
def State.endPause (s : State) (c : Chan) : State :=
  let s1 := s.modChan c (fun k => { k.toRest with drv.reversalTimer := none })
  s1.takeAtRest c (s.pauseWinner c)

/-- REVERSAL_PAUSE_END (R102, R144). -/
def execReversalPauseEnd (c : Chan) (s : State) : Host.Outcome State Fault Refusal :=
  .next
    (if decide ((s.chan c).state = .reversing) && (s.chan c).drv.reversalTimer.isSome then (s.endPause c).finish s
     else s)

/-- A jog is being served on a channel and its timer runs. -/
def Channel.jogRuns (k : Channel) : Bool := (k.drv.jog.map (fun j => j.timer.isSome)).getD false

/-- JOG_TIMER_EXPIRY (R146). -/
def execJogTimerExpiry (c : Chan) (s : State) : Host.Outcome State Fault Refusal :=
  .next (if (s.chan c).jogRuns then (s.endJog c).finish s else s)

/-- REFERENCE_TIMER_EXPIRY (R103, R104). -/
def execReferenceTimerExpiry (c : Chan) (s : State) : Host.Outcome State Fault Refusal :=
  .next
    (if (s.chan c).dem.refTimer.isSome then
       ((s.modChan c (fun k => { k with dem.refTimer := none, dem.refDue := true })).testReference c).finish s
     else s)

end Sys2Proof.Machine
end

