-- ==== Sys2Proof/Machine/FireCommands.lean ====
section
/-! DEFINITION. The commands of the fire loop, the general alarm, the pulse timer, the two key switches and the two maps of origins
(R71 to R84, R91, R96). -/

namespace Sys2Proof.Machine

open Sys2Proof

/-! ## The fire loop (R71 to R73) -/

/-- A sample class is seen: a new candidate restarts the candidate timer (R72). -/
def FireUnit.seeClass (f : FireUnit) (cl : LoopClass) : FireUnit :=
  if f.candidate = some cl then { f with sampleClass := some cl }
  else { f with sampleClass := some cl, candidate := some cl, candidateTimer := some 300 }

/-- LOOP_READING (R71, R72). -/
def execLoopReading (raw : Raw) (s : State) : Host.Outcome State Fault Refusal :=
  .next (if s.detected then { s with fire := s.fire.seeClass (loopClassOf raw) } else s)

/-- The loop faults that stand under a loop class (R72). -/
def State.loopFaults (s : State) (cl : LoopClass) : State :=
  ((s.faultIf 5 (decide (cl = .open))).faultIf 6 (decide (cl = .short))).faultIf 7 (decide (cl = .drift))

/-- The CONTACT clear timer under a new loop class (R73). -/
def contactTimerAfter (contact : Bool) (cl : LoopClass) : Timer :=
  if contact && decide (cl = .normal) then some 5000 else none

/-- A class becomes the loop class (R72, R73). -/
def State.settleLoop (s : State) (cl : LoopClass) : State :=
  let s1 := { s with
    fire.loopClass := some cl
    fire.candidateTimer := none
    fire.contactTimer := contactTimerAfter s.fire.contact cl }.loopFaults cl
  if cl = .alarm then s1.setCauses true s.fire.heat else s1

/-- LOOP_SETTLE (R72): the candidate has held for 300 ms. The command that stands in the queue says so: a candidate that a LOOP_READING
of the same instant has put in its place just before is settled as it stands (log entry 47). -/
def execLoopSettle (s : State) : Host.Outcome State Fault Refusal :=
  .next
    (match s.fire.candidate, s.fire.candidateTimer with
     | some cl, some _ =>
       if s.fire.loopClass = some cl then { s with fire.candidateTimer := none } else (s.settleLoop cl).finish s
     | _, _ => s)

/-- CONTACT_CLEAR_EXPIRY (R73, R74). -/
def execContactClearExpiry (s : State) : Host.Outcome State Fault Refusal :=
  .next
    (if s.fire.contactTimer.isSome then
       ({ s with fire.contactTimer := none }.setCauses false s.fire.heat).finish s
     else s)

/-! ## The general alarm and the pulses (R78, R79) -/

/-- GENERAL_TIMER_EXPIRY (R78): a timer that a hold-down of the same instant has restarted runs on (log entry 3). -/
def execGeneralTimerExpiry (s : State) : Host.Outcome State Fault Refusal :=
  .next
    (if s.fire.generalTimer.isSome && s.fire.generalTimer != some 30000 then ({ s with fire.generalTimer := none }.refreshFire).finish s else s)

/-- PULSE_TIMER_EXPIRY (R79). -/
def execPulseTimerExpiry (s : State) : Host.Outcome State Fault Refusal :=
  .next
    (if s.fire.pulseTimer.isSome && s.pulsesDue then
       ({ s with fire.pulseTimer := some 5000 }.requestPulse).finish s
     else s)

/-! ## The firefighter key and the override map (R80 to R84) -/

/-- FKEY_READING (R80): a reading other than the taken position is a candidate for 100 ms. -/
def execFkeyReading (openClosed closeClosed : Bool) (s : State) : Host.Outcome State Fault Refusal :=
  let pos := fkeyPos openClosed closeClosed
  .next
    (if !s.detected || decide (s.fire.keyCandidate = some pos) then s
     else if s.fire.keyTaken = pos then { s with fire.keyCandidate := none, fire.keyTimer := none }
     else { s with fire.keyCandidate := some pos, fire.keyTimer := some 100 })

/-- A position of the firefighter key is taken: OVERRIDE is queued, and the own origin follows (R27, R80, R81). -/
def State.takeFkey (s : State) (pos : KeyPos) : State :=
  { s with fire.keyTaken := pos, fire.keyCandidate := none, fire.keyTimer := none }.queueOverride.setOwnOverride

/-- FKEY_TAKEN (R80): the candidate is taken as it stands, a reading of the same instant that has just put it there included (log
entry 47). -/
def execFkeyTaken (s : State) : Host.Outcome State Fault Refusal :=
  .next
    (match s.fire.keyCandidate, s.fire.keyTimer with
     | some pos, some _ => (s.takeFkey pos).finish s
     | _, _ => s)

/-- OVERRIDE_ORIGIN_EXPIRY (R83): the origin of a peer, but one that a notice of the same instant has brought to age 0; the own
origin holds no age and does not expire. -/
def execOverrideOriginExpiry (bay : Nat) (s : State) : Host.Outcome State Fault Refusal :=
  .next
    (if s.fire.overrides.any (fun o => o.bay == bay && (o.age.map (fun n => n != 0)).getD false) then
       (s.setOverrides (withoutOverride bay s.fire.overrides)).finish s
     else s)

/-! ## The local key and the ventilation map (R91, R96) -/

/-- LKEY_READING (R91). -/
def execLkeyReading (openClosed closeClosed : Bool) (s : State) : Host.Outcome State Fault Refusal :=
  let pos := lkeyPos openClosed closeClosed
  .next
    (if !s.detected || decide (s.dem.keyCandidate = some pos) then s
     else if s.dem.keyTaken = pos then { s with dem.keyCandidate := none, dem.keyTimer := none }
     else { s with dem.keyCandidate := some pos, dem.keyTimer := some 100 })

/-- A position of the local key is taken, and the LOCAL source follows (R91). -/
def State.takeLkey (s : State) (pos : KeyPos) : State :=
  { s with dem.keyTaken := pos, dem.keyCandidate := none, dem.keyTimer := none }.eachChan (fun c s => s.handLocal c)

/-- LKEY_TAKEN (R91): the candidate is taken as FKEY_TAKEN takes it (log entry 47). -/
def execLkeyTaken (s : State) : Host.Outcome State Fault Refusal :=
  .next
    (match s.dem.keyCandidate, s.dem.keyTimer with
     | some pos, some _ => (s.takeLkey pos).finish s
     | _, _ => s)

/-- VENTILATION_ORIGIN_EXPIRY (R96, R97): an origin that a notice of the same instant has brought to age 0 stays. -/
def execVentilationOriginExpiry (bay : Nat) (s : State) : Host.Outcome State Fault Refusal :=
  .next
    (if s.dem.ventMap.any (fun o => o.bay == bay && o.age != 0) then
       (s.setVentMap (withoutVent bay s.dem.ventMap)).finish s
     else s)

end Sys2Proof.Machine
end

