-- ==== Sys2Proof/Machine/LimitCommands.lean ====
section
/-! DEFINITION. The commands of the duty and thermal limits (R148 to R154). -/

namespace Sys2Proof.Machine

open Sys2Proof

/-- DUTY_WINDOW_END (R148). -/
def execDutyWindowEnd (c : Chan) (s : State) : Host.Outcome State Fault Refusal :=
  .next
    (if (s.chan c).lim.window.isSome && !(s.chan c).lim.throttled then s.modChan c (fun k => k.newWindow s.fields)
     else s)

/-- A run tick: the run counter rises, and at the threshold the channel is throttled (R149, R150). -/
def State.countTick (s : State) (c : Chan) : State :=
  let s1 := s.modChan c (fun k => { k with lim.runCounter := k.lim.runCounter + 1, lim.tickAcc := 0 })
  if s.fields.threshold ≤ (s1.chan c).lim.runCounter then (s1.modChan c (fun k => k.throttle s.fields)).evalLimit c
  else s1

/-- The duty window of a channel begins at this instant: a run tick of the same instant has been counted in the window that has
ended (R150). -/
def Channel.windowBegins (k : Channel) (f : Fields) : Bool :=
  decide (k.lim.window = some f.windowMs) && decide (k.lim.tickAcc = 0)

/-- A run tick is counted (R149 to R151): the motor is driven, or was until this instant with 100 ms accumulated (log entry 36), the
channel is not throttled, and the tick is of the present window. -/
def Channel.ticks (k : Channel) (f : Fields) : Bool :=
  !k.lim.throttled && (decide (100 ≤ k.lim.tickAcc) || (k.driven && !k.windowBegins f))

/-- RUN_TICK (R149 to R151). -/
def execRunTick (c : Chan) (s : State) : Host.Outcome State Fault Refusal :=
  .next (if (s.chan c).ticks s.fields then (s.countTick c).finish s else s)

/-- A throttle ends: a new window, and the limit veto evaluated (R152). -/
def State.endThrottle (s : State) (c : Chan) : State :=
  (s.modChan c (fun k =>
    { k.newWindow s.fields with lim.throttled := false, lim.throttleTimer := none })).evalLimit c

/-- THROTTLE_END (R152). -/
def execThrottleEnd (c : Chan) (s : State) : Host.Outcome State Fault Refusal :=
  .next
    (if (s.chan c).lim.throttled && (s.chan c).lim.throttleTimer.isSome then (s.endThrottle c).finish s else s)

/-- DRIVER_FLAG_SET (R153). -/
def execDriverFlagSet (s : State) : Host.Outcome State Fault Refusal :=
  .next (if s.detected && !s.lim.hold then s.startHold.finish s else s)

/-- The thermal hold ends (R154). -/
def State.endHold (s : State) : State :=
  ({ s with lim.hold := false, lim.holdTimer := none }.removeFault 14).eachChan (fun c s => s.evalLimit c)

/-- THERMAL_HOLD_END (R154): with the flag set a new hold begins without a break. -/
def execThermalHoldEnd (flag : Bool) (s : State) : Host.Outcome State Fault Refusal :=
  .next
    (if s.lim.hold && s.lim.holdTimer.isSome then
       if flag then { s with lim.holdTimer := some 60000 } else s.endHold.finish s
     else s)

end Sys2Proof.Machine
end

