-- ==== Sys2Proof/Machine/LineCommands.lean ====
section
/-! DEFINITION. The commands of the roof line (R2 to R14). Each is the instant it names; one whose precondition does not hold
has no effect. -/

namespace Sys2Proof.Machine

open Sys2Proof

/-! ## Characters and edges -/

/-- START_BIT_SAMPLE (R2, R3): a recessive reading is a glitch, and the edge began no span; a dominant one confirms the start bit, which
in IDLE begins a notice. -/
def execStartBitSample (dominant : Bool) (s : State) : Host.Outcome State Fault Refusal :=
  .next
    (match dominant, s.line.receiver with
     | true, .idle => { s with line.receiver := .receiving [] true, line.recessive := 0 }
     | true, .receiving chars _ => { s with line.receiver := .receiving chars true }
     | false, .idle => s.readRecessive
     | false, .receiving _ _ => s.readRecessive
     | _, .recovering => s)

/-- CHARACTER_END (R2 to R5, R13). The operands are what sampledChar takes from the samples of the character. -/
def execCharacterEnd (char : Byte) (stopRecessive : Bool) (s : State) : Host.Outcome State Fault Refusal :=
  .next ((s.takeChar char stopRecessive).finish s)

/-- DOMINANT_EDGE (R4, R6): the span timer starts, and the recessive count restarts; in IDLE it is the idle count of R9, which an edge that
START_BIT_SAMPLE then finds to be a glitch restarts too (log entry 59, the model's choice). -/
def execDominantEdge (s : State) : Host.Outcome State Fault Refusal :=
  .next (if s.longSpan then s else { s with line.span := some 0, line.recessive := 0 })

/-- The receiver as a notice's first character begins. -/
def State.startNotice (s : State) (rest : List Byte) : State :=
  match s.line.receiver with
  | .idle => if rest = [] then s else { s with line.receiver := .receiving [] true, line.recessive := 0 }
  | _ => s

/-- NOTICE_RECEIVED (R3 to R5, R22, R23): the characters that no CHARACTER_END has taken end one after another, the last of
them completing the notice. -/
def execNoticeReceived (rest : List Byte) (s : State) : Host.Outcome State Fault Refusal :=
  .next (((s.startNotice rest).takeChars rest).finish s)

/-- Whether the receiver is between two characters of a notice. -/
def Receiver.betweenChars : Receiver → Bool
  | .receiving _ inChar => !inChar
  | _ => false

/-- GAP (R4): a notice being received ends with a GAP error. -/
def execGap (s : State) : Host.Outcome State Fault Refusal :=
  .next (if s.line.receiver.betweenChars && s.line.flight.isNone then s.readRecessive.discardNotice.finish s else s)

/-- RECOVERY_COMPLETE (R4): the receiver returns from RECOVERING to IDLE. -/
def execRecoveryComplete (s : State) : Host.Outcome State Fault Refusal :=
  .next (if s.line.receiver = .recovering && !s.longSpan then s.toIdle else s)

/-! ## Long dominant spans -/

/-- SPAN_11_BIT_TIMES (R6). -/
def execSpan11BitTimes (s : State) : Host.Outcome State Fault Refusal := .next (s.reachSpan11.finish s)

/-- SPAN_RELEASE (R7, R8): the line is recessive again, so the station drives no break of its own. While it drives a pulse of its own the
line can be recessive where the drive does not reach it (R78), and what was released is then the span of another station. -/
def execSpanRelease (len : Nat) (s : State) : Host.Outcome State Fault Refusal :=
  .next
    (match s.line.drive with
     | .breakPulse => s
     | _ => (s.releaseSpan (bitTimes len)).finish s)

/-- LINE_STUCK (R8). -/
def execLineStuck (s : State) : Host.Outcome State Fault Refusal := .next (s.reachStuck.finish s)

/-! ## Sending -/

/-- The back-off offset of a class, in bit times (R9). -/
def backOff (bay : Nat) : NoticeClass → Nat
  | .alarm => 0
  | .motion => 8 + bay
  | .routine => 24 + bay

/-- The idle count that an attempt for a notice waits for, in bit times (R9). -/
def idleNeeded (bay : Nat) (n : Notice) : Nat := 12 + backOff bay n.noticeClass

/-- The station may begin an attempt for a notice (R9); the idle count is the greater of the one counted and the reading. -/
def State.mayAttempt (s : State) (n : Notice) (idle : Nat) : Bool :=
  !s.starting && decide (s.line.drive = .released) && decide (s.line.receiver = .idle) && s.line.flight.isNone &&
    decide (bitTimes (idleNeeded s.bay n) ≤ max s.line.recessive (bitTimes idle))

/-- The counter fields of a HEALTH notice are filled at the beginning of an attempt (R16). -/
def State.fillCounters (s : State) (n : Notice) : Notice :=
  match n with
  | .health h => .health { h with valid := s.line.valid, discard := s.line.discard, dropped := s.line.dropped }
  | n => n

/-- The head notice goes in flight, and the station drives its start bit (R9). -/
def State.beginAttempt (s : State) (e : QueueEntry) (rest : List QueueEntry) : State :=
  let n := s.fillCounters e.notice
  { s with
    line.drive := .notice
    line.queue := { e with notice := n } :: rest
    line.flight := some ⟨n, n.frame s.bay, false⟩
    line.span := some 0
    line.recessive := 0 }

/-- ATTEMPT_BEGIN (R9, R16). -/
def execAttemptBegin (idle : Nat) (s : State) : Host.Outcome State Fault Refusal :=
  .next
    (match s.line.queue with
     | [] => s
     | e :: rest => if s.mayAttempt e.notice idle then s.beginAttempt e rest else s)

/-- LOST_CONTENTION (R10): the attempt fails, and the receiver goes on with the notice in progress. -/
def execLostContention (s : State) : Host.Outcome State Fault Refusal :=
  .next
    (if s.line.flight.isSome then
       let s1 := s.failAttempt
       let s2 := if s1.line.receiver = .idle then { s1 with line.receiver := .receiving [] true, line.recessive := 0 } else s1
       s2.finish s
     else s)

/-- ECHO_FAULT (R11, R17). -/
def execEchoFault (s : State) : Host.Outcome State Fault Refusal :=
  .next (if s.line.flight.isSome then s.failEcho.finish s else s)

/-- CLEAN_ECHO (R12, R16, R17, R113). -/
def execCleanEcho (s : State) : Host.Outcome State Fault Refusal :=
  .next
    (match s.line.flight with
     | some f => (s.echoClean f).finish s
     | none => s)

/-! ## Breaks and hold-down pulses -/

/-- A break may begin: a character of the ROUTINE notice has ended since the test of R13 held, the next has not begun, and the ALARM
notice still heads the queue unmarked. In STARTING none begins (R1); a test that held there still counts after the end of the listen
period, whatever number of characters is then to come (log entry 56, the model's choice). -/
def State.mayBreak (s : State) : Bool :=
  s.line.breakAtEnd && !s.starting && decide (s.line.drive = .released) && s.line.flight.isNone &&
    s.line.receiver.betweenChars &&
    (match s.line.queue with
     | e :: _ => decide (e.notice.noticeClass = .alarm) && !e.mark
     | [] => false)

/-- The head entry is marked. -/
def markHead : List QueueEntry → List QueueEntry
  | e :: rest => { e with mark := true } :: rest
  | [] => []

/-- PREEMPTIVE_BREAK (R13): the line is driven for 30 bit times, the mark set, and the reception abandoned without counting. -/
def execPreemptiveBreak (s : State) : Host.Outcome State Fault Refusal :=
  .next
    (if s.mayBreak then
       { s.toRecovering with
         line.drive := .breakPulse
         line.breakTimer := some (bitTimes 30)
         line.queue := markHead s.line.queue
         line.span := some (s.spanAtLeast 0) }
     else s)

/-- The terminal is released at the end of the station's own break or pulse (R1). -/
def State.releaseTerminal (s : State) : State :=
  { s with line.drive := .released, line.breakTimer := none, line.pulseEndTimer := none }

/-- The line at the release of the station's own break or pulse: recessive, with a reading of the span timer by which the span is
classified (R7), or still dominant by another station, so that the span goes on (R14). -/
def State.lineAtRelease (s : State) (released : Option Nat) : State :=
  match released with
  | some len => s.releaseSpan (bitTimes len)
  | none => s

/-- The dominant span has lasted for the 30 bit times of the station's own break at least (R13). -/
def State.spanOfBreak (s : State) : State :=
  let s1 := s.reachSpan11
  { s1 with line.span := some (s1.spanAtLeast (bitTimes 30)) }

/-- BREAK_END (R7, R13): 30 bit times after the break began. -/
def execBreakEnd (released : Option Nat) (s : State) : Host.Outcome State Fault Refusal :=
  .next
    (if s.line.drive = .breakPulse && s.line.breakTimer.isSome then
       (s.releaseTerminal.spanOfBreak.lineAtRelease released).finish s
     else s)

/-- A requested pulse may begin (R14): not in STARTING, and with no attempt in flight. -/
def State.mayPulse (s : State) : Bool := s.line.pulseRequested && !s.starting && s.line.flight.isNone

/-- The span that the span timer sees as a pulse begins (R6, R78): a long one in progress goes on until its release. Else a span begins with
the edge that the pulse makes on the line, which is a DOMINANT_EDGE, and where the drive does not reach the line there is none (log entry 53). -/
def State.spanAtPulse (s : State) : Option Nat := if s.longSpan then s.line.span else none

/-- PULSE_BEGIN (R14, R78): the request is dropped while LINE_STUCK stands; else the station drives the line for 600 ms, and the general
timer starts, whether or not the drive reaches the line. A request made while a pulse of the station is driven begins at once too, and its
600 ms run from then (log entry 46). -/
def execPulseBegin (s : State) : Host.Outcome State Fault Refusal :=
  .next
    (if s.mayPulse then
       let s1 := { s with line.pulseRequested := false }
       if s.lineStuckStands then s1
       else
         ({ s1 with
            line.drive := .holdDown
            line.breakTimer := none
            line.pulseEndTimer := some 600
            line.span := s.spanAtPulse }.startGeneral).finish s
     else s)

/-- PULSE_END (R7, R14): 600 ms after the pulse began the terminal is released. The span that the span timer has seen is classified: one of
600 ms is a hold-down, and with no span, where the pulse did not reach the line, nothing is passed on (R78). -/
def execPulseEnd (released : Option Nat) (s : State) : Host.Outcome State Fault Refusal :=
  .next
    (if s.line.drive = .holdDown && s.line.pulseEndTimer.isSome then
       (s.releaseTerminal.lineAtRelease released).finish s
     else s)

end Sys2Proof.Machine
end

