-- ==== Sys2Proof/Machine/ScheduleCommands.lean ====
section
/-! DEFINITION. The commands of the schedules (R25 to R33) and of the Peer View (R42 to R47). A command that names the expiry of a
timer is that instant, and acts where the timer runs; where the rule lets a notice of the same instant come first, what that notice
has just refreshed does not expire (log entry 3). -/

namespace Sys2Proof.Machine

open Sys2Proof

/-! ## Schedules -/

/-- FIRE_RESEND (R25, R75). -/
def execFireResend (s : State) : Host.Outcome State Fault Refusal :=
  .next (if s.localFire && s.sched.fireResend.isSome then s.queueFire.refreshFire.finish s else s)

/-- OVERRIDE_REPEAT (R27). -/
def execOverrideRepeat (s : State) : Host.Outcome State Fault Refusal :=
  .next (if s.sched.overrideRepeat.isSome then s.queueOverride.finish s else s)

/-- STATUS_PERIODIC (R30). -/
def execStatusPeriodic (s : State) : Host.Outcome State Fault Refusal :=
  .next (if !s.starting && s.sched.statusPeriod.isSome then s.queueStatus.finish s else s)

/-- STATUS_SPACING_EXPIRY (R30): the spacing is over; a STATUS that still differs is queued at once. -/
def execStatusSpacingExpiry (s : State) : Host.Outcome State Fault Refusal :=
  .next ({ s with sched.statusSpacing := none }.finish s)

/-- WEATHER_PERIOD (R31). -/
def execWeatherPeriod (s : State) : Host.Outcome State Fault Refusal :=
  .next (if s.sensorStation && s.sched.weatherPeriod.isSome then s.queueWeather.finish s else s)

/-- Whether a sample calls for a VENTILATE: its demand differs from the target last queued by 10 or more (R32). -/
def sampleCalls (last : Option Nat) (d : Nat) : Bool := (last.map (fun q => decide (10 ≤ apart d q))).getD false

/-- VDEM_SAMPLE (R32). -/
def execVdemSample (raw : Raw) (s : State) : Host.Outcome State Fault Refusal :=
  .next
    (if s.detected && s.fields.demandFitted then
       let s1 := { s with dem.sample := demandOf raw }
       if sampleCalls s.sched.lastVentilate (demandOf raw) then s1.queueVentilate.finish s else s1
     else s)

/-- VENTILATE_PERIOD (R32). -/
def execVentilatePeriod (s : State) : Host.Outcome State Fault Refusal :=
  .next (if s.fields.demandFitted && s.sched.ventilatePeriod.isSome then s.queueVentilate.finish s else s)

/-- HEALTH_PERIOD (R33). -/
def execHealthPeriod (s : State) : Host.Outcome State Fault Refusal :=
  .next (if s.sched.healthPeriod.isSome then s.queueHealth.finish s else s)

/-! ## Peer View -/

/-- The entry of a bay changed where it stands. -/
def changeEntry (bay : Nat) (f : PeerEntry → PeerEntry) (l : List PeerEntry) : List PeerEntry :=
  l.map (fun e => if e.bay = bay then f e else e)

/-- An entry's report expires: it is held, and no longer offered (R47). -/
def PeerEntry.expireReport (e : PeerEntry) : PeerEntry :=
  { e with weather := e.weather.map (fun h => { h with offered := false, age := max h.age 10000 }) }

/-- REPORT_EXPIRY (R41, R47): a report that arrived at the same instant, of age 0, stays in the offered set. -/
def execReportExpiry (bay : Nat) (s : State) : Host.Outcome State Fault Refusal :=
  .next
    (if s.peer.entries.any (fun e => e.bay == bay && (e.weather.map (fun h => h.offered && h.age != 0)).getD false) then
       ({ s with peer.entries := changeEntry bay PeerEntry.expireReport s.peer.entries }.recombine).finish s
     else s)

/-- An entry goes stale (R42). -/
def PeerEntry.goStale (e : PeerEntry) : PeerEntry := { e with fresh := false, age := max e.age 15000 }

/-- The Peer View holds an entry of a bay that no notice of this instant has refreshed (R42, R43). -/
def State.holdsAgedPeer (s : State) (bay : Nat) : Bool := s.peer.entries.any (fun e => e.bay == bay && e.age != 0)

/-- ENTRY_STALE (R42, R46): an entry refreshed at the same instant, of age 0, does not go stale. -/
def execEntryStale (bay : Nat) (s : State) : Host.Outcome State Fault Refusal :=
  .next
    (if s.holdsAgedPeer bay then { s with peer.entries := changeEntry bay PeerEntry.goStale s.peer.entries }.finish s
     else s)

/-- ENTRY_REMOVAL (R43): an entry refreshed at the same instant, of age 0, stays with its parts. The set of offered reports is
read anew where the entry still offered one (log entry 27). -/
def execEntryRemoval (bay : Nat) (s : State) : Host.Outcome State Fault Refusal :=
  .next
    (if s.holdsAgedPeer bay then
       let s1 := { s with peer.entries := s.peer.entries.filter (fun e => e.bay != bay) }
       let s2 :=
         if s.peer.entries.any (fun e => e.bay == bay && (e.weather.map (·.offered)).getD false) then s1.recombine
         else s1
       s2.finish s
     else s)

/-- BAY_CONFLICT_EXPIRY (R44): a timer that a notice of the same instant has restarted runs on. -/
def execBayConflictExpiry (s : State) : Host.Outcome State Fault Refusal :=
  .next
    (if s.peer.conflictTimer.isSome && s.peer.conflictTimer != some 60000 then ({ s with peer.conflictTimer := none }.removeFault 2).finish s else s)

end Sys2Proof.Machine
end

