-- ==== Sys2Proof/Machine/SensorCommands.lean ====
section
/-! DEFINITION. The commands of the sensors: the gates of the anemometer with the vane, the rain scans, the heat samples, and the
storm clear timer (R50 to R63). -/

namespace Sys2Proof.Machine

open Sys2Proof

/-! ## Wind (R50 to R52, R55) -/

/-- A value joins a ring of a capacity as its newest entry; a full ring loses its oldest. -/
def joinRing {α : Type} (capacity : Nat) (ring : List α) (a : α) : List α :=
  (if capacity ≤ ring.length then ring.drop (ring.length + 1 - capacity) else ring) ++ [a]

/-- The mean of a gate ring (R51). -/
def meanOf (ring : List Nat) : Nat := ring.sum / ring.length

/-- The gust of a gate ring: the largest of its newest three (R51). -/
def gustOf (ring : List Nat) : Nat := (ring.drop (ring.length - 3)).foldl max 0

/-- The own report after a gate: mean and gust of the ring where the anemometer is confirmed, the direction where the vane is. -/
def reportAfterGate (anemo vaneOk : Bool) (ring : List Nat) (direction : Option Nat) (r : Report) : Report :=
  let r1 := if anemo then { r with mean := some (meanOf ring), gust := some (gustOf ring) } else r
  if vaneOk then { r1 with direction := direction } else r1

/-- The direction of a vane sample; none for a faulty one (R52). -/
def State.sampledDirection (s : State) (vane : Raw) : Option Nat :=
  if vaneInRange vane then some (vaneDirection s.fields.northOffset vane) else none

/-- A gate ends (R50 to R52). -/
def State.endGate (s : State) (pulses : Nat) (vane : Raw) : State :=
  let anemo := decide (s.sup.presence.anemo = some true)
  let vaneOk := decide (s.sup.presence.vane = some true)
  let ring := if anemo then joinRing 10 s.wx.ring (gateSpeed s.fields.k (s.wx.gateCount + pulses)) else s.wx.ring
  let s1 := { s with wx.gateTimer := some 1000, wx.gateCount := 0, wx.ring := ring }
  let s2 := if vaneOk then s1.faultIf 48 (!vaneInRange vane) else s1
  s2.setOwnReport (reportAfterGate anemo vaneOk ring (s.sampledDirection vane) s.wx.own)

/-- GATE_END (R50 to R52, R55). -/
def execGateEnd (pulses : Nat) (vane : Raw) (s : State) : Host.Outcome State Fault Refusal :=
  .next (if s.wx.gateTimer.isSome then (s.endGate pulses vane).finish s else s)

/-! ## Rain (R53, R54) -/

/-- The dry scans that clear the rain flag (R54). -/
def Fields.dryNeeded (f : Fields) : Nat := f.rainHold * 60000 / f.rainPeriod

/-- A wet scan (R53). -/
def WeatherUnit.wetScan (w : WeatherUnit) : WeatherUnit :=
  let run := min 2 (w.wetRun + 1)
  { w with wetRun := run, dryRun := 0, rainFlag := w.rainFlag || decide (run = 2) }

/-- A dry scan, with N the dry scans that clear the flag (R53, R54). -/
def WeatherUnit.dryScan (w : WeatherUnit) (n : Nat) : WeatherUnit :=
  let run := min n (w.dryRun + 1)
  { w with dryRun := run, wetRun := 0, rainFlag := w.rainFlag && decide (run < n) }

/-- A rain scan (R53, R54). -/
def State.scanRain (s : State) (raw : Raw) : State :=
  let s1 := { s with wx.rainTimer := some s.fields.rainPeriod }
  if plateInRange raw then
    let w := if raw.toNat < s.fields.rainThreshold then s1.wx.wetScan else s1.wx.dryScan s.fields.dryNeeded
    ({ s1 with wx := w }.removeFault 9).setOwnReport { w.own with rain := some w.rainFlag }
  else
    ({ s1 with wx.wetRun := 0, wx.dryRun := 0 }.addFault 9).setOwnReport { s.wx.own with rain := none }

/-- RAIN_SCAN (R53 to R55). -/
def execRainScan (raw : Raw) (s : State) : Host.Outcome State Fault Refusal :=
  .next (if s.wx.rainTimer.isSome then (s.scanRain raw).finish s else s)

/-! ## Heat (R56 to R59) -/

/-- The rate condition: a full ring whose newest is at least Rr above its oldest (R58). -/
def rateHolds (rr : Nat) (ring : List Int) : Bool :=
  decide (ring.length = 61) && decide ((rr : Int) ≤ ring.getLastD 0 - ring.headD 0)

/-- An in-range sample of a temperature, the alarm aside (R57 to R59). -/
def WeatherUnit.heatRuns (w : WeatherUnit) (th rr : Nat) (t : Int) : WeatherUnit :=
  let ring := joinRing 61 w.heatRing t
  let rate := rateHolds rr ring
  { w with
    heatRing := ring
    fixedRun := if (th : Int) ≤ t then w.fixedRun + 1 else 0
    rateRun := if rate then w.rateRun + 1 else 0
    clearRun := if w.heatAlarm && decide (t < (th : Int) - 50) && !rate then w.clearRun + 1 else 0 }

/-- The heat alarm after the runs: set from clear at a run of 3, cleared at a clear run of 300 (R57 to R59). -/
def WeatherUnit.alarmAfter (w : WeatherUnit) : Bool :=
  if w.heatAlarm then decide (w.clearRun ≠ 300) else decide (w.fixedRun = 3) || decide (w.rateRun = 3)

/-- The clear run becomes 0 as it clears the alarm (R59). -/
def WeatherUnit.resetClear (w : WeatherUnit) : WeatherUnit :=
  if w.clearRun = 300 then { w with clearRun := 0 } else w

/-- A faulty sample: the ring emptied, the runs 0 (R59). -/
def WeatherUnit.heatFaulty (w : WeatherUnit) : WeatherUnit :=
  { w with heatRing := [], fixedRun := 0, rateRun := 0, clearRun := 0 }

/-- A heat sample (R56 to R59). -/
def State.sampleHeat (s : State) (raw : Raw) : State :=
  let s1 := { s with wx.heatTimer := some 1000 }
  if plateInRange raw then
    let w := s1.wx.heatRuns s.fields.th s.fields.rr (temperature s.fields.cal s.fields.sHeat raw)
    let s2 := { s1 with wx := w.resetClear }.removeFault 8
    if w.alarmAfter = w.heatAlarm then s2 else s2.setHeatAlarm w.alarmAfter
  else { s1 with wx := s1.wx.heatFaulty }.addFault 8

/-- HEAT_SAMPLE (R56 to R59). -/
def execHeatSample (raw : Raw) (s : State) : Host.Outcome State Fault Refusal :=
  .next (if s.wx.heatTimer.isSome then (s.sampleHeat raw).finish s else s)

/-! ## Storm (R63, R64) -/

/-- The storm flag clears, and the WEATHER source follows (R63, R64). -/
def State.clearStorm (s : State) : State :=
  { s with wx.atrium.storm := false, wx.atrium.stormTimer := none }.eachChan (fun c s => s.handWeather c)

/-- STORM_CLEAR_EXPIRY (R63). -/
def execStormClearExpiry (s : State) : Host.Outcome State Fault Refusal :=
  .next (if s.wx.atrium.stormTimer.isSome then s.clearStorm.finish s else s)

end Sys2Proof.Machine
end

