-- ==== Sys2Proof/Machine/ServiceOps.lean ====
section
/-! DEFINITION. The service port: frames, requests, the tests of a request, and what each request does (R174 to R177). -/

namespace Sys2Proof.Machine

open Sys2Proof

/-! ## Characters, frames and replies (R174) -/

/-- The levels of one byte on STX or SRX, one for each of 10 bit times, true being the high level: a low start bit, 8 data bits, the least
significant first, with a 1 at the high level, and a high stop bit. -/
def serialChar (b : Byte) : List Bool := false :: ((List.range 8).map b.getLsbD ++ [true])

/-- The level of a pin of the port between characters. -/
def serialIdle : Bool := true

/-- The byte that the levels of one character carry; none where the start bit is high or the stop bit low. -/
def serialByte : List Bool → Option Byte
  | [false, a, b, c, d, e, f, g, h, true] =>
    some (BitVec.ofNat 8 (a.toNat + 2 * b.toNat + 4 * c.toNat + 8 * d.toNat + 16 * e.toNat + 32 * f.toNat + 64 * g.toNat +
      128 * h.toNat))
  | _ => none

/-- The levels of a frame's bytes, one character after another. -/
def serialFrame (frame : List Byte) : List Bool := frame.flatMap serialChar

/-- The byte that makes all bytes of a frame sum to 0 modulo 256. -/
def sumByte (bytes : List Byte) : Byte := 0#8 - bytes.foldl (· + ·) 0#8

/-- All bytes sum to 0 modulo 256. -/
def sumsToZero (bytes : List Byte) : Bool := bytes.foldl (· + ·) 0#8 == 0#8

/-- A frame from its first byte and its data. -/
def serviceFrame (first : Byte) (data : List Byte) : List Byte :=
  let body := first :: char data.length :: data
  body ++ [sumByte body]

/-- The reasons of a REFUSED reply. -/
inductive Reason where
  | badSum | badIndex | badCommand | busy | badSignature | supplyLow
  deriving DecidableEq, Repr, Inhabited

/-- The code of a reason. -/
def Reason.code : Reason → Nat
  | .badSum => 1
  | .badIndex => 2
  | .badCommand => 3
  | .busy => 4
  | .badSignature => 5
  | .supplyLow => 6

/-- The ACK frame that carries some data. -/
def ackFrame (data : List Byte) : List Byte := serviceFrame 0xA0#8 data

/-- The REFUSED frame of a reason. -/
def refusedFrame (r : Reason) : List Byte := serviceFrame 0xA1#8 [char r.code]

/-- A reply is sent on STX. -/
def State.reply (s : State) (frame : List Byte) : State := { s with svc.replies := s.svc.replies ++ [frame] }

/-- What STX has carried, its idle times between characters left out: the replies in the order in which they went out. -/
def State.stxLevels (s : State) : List Bool := s.svc.replies.flatMap serialFrame

/-- ACK is sent. -/
def State.ack (s : State) (data : List Byte) : State := s.reply (ackFrame data)

/-- REFUSED is sent. -/
def State.refuse (s : State) (r : Reason) : State := s.reply (refusedFrame r)

/-! ## What each request does (R176, R177) -/

/-- The byte of a decode status. -/
def statusByte : DecodeStatus → Byte
  | .clean => 0#8
  | .corrected => 1#8
  | .uncorrectable => 2#8

/-- The two bytes of a word. -/
def wordBytes (w : Word) : List Byte := [w.hi, w.lo]

/-- READ WORD: the store word decoded afresh, as R176 has it; where a station runs on a clamped field, R173's last sentence would have the
clamped value here (log entry 43, the model's choice). -/
def State.serveReadWord (s : State) (i : Nat) : State :=
  let d := (readStore s.cfg.store i).decode
  s.ack (wordBytes d.1 ++ [statusByte d.2])

/-- READ STAGE: the staging word. -/
def State.serveReadStage (s : State) (i : Nat) : State := s.ack (wordBytes (imageWord s.svc.staging i))

/-- STAGE WORD: the staging word replaced. -/
def State.serveStageWord (s : State) (i : Nat) (v : Word) : State :=
  { s with svc.staging := s.svc.staging.set i v }.ack []

/-- PROGRAM: refused with BAD_SIGNATURE or SUPPLY_LOW, else the programming begins with word 0. -/
def State.serveProgram (s : State) : State :=
  if signature s.svc.staging ≠ imageWord s.svc.staging 63 then s.refuse .badSignature
  else if s.sup.low then s.refuse .supplyLow
  else { s with svc.programming := some 0, svc.programTimer := some 5 }

/-- The state and position of a channel as READ STATE carries them. An ABSENT channel has no count; its position is sent as 0 (log entry 42,
the model's choice). -/
def State.stateBytes (s : State) (c : Chan) : List Byte :=
  char (s.chan c).state.code :: natBytes (if (s.chan c).state = .absent then 0 else s.position c)

/-- READ STATE: the mode 3, the fault set, and the four channels. -/
def State.serveReadState (s : State) : State :=
  s.ack ([3#8, char s.sup.faults.length] ++ s.sup.faults.map char ++ Quad.all.flatMap s.stateBytes)

/-- The direction of a JOG request. -/
def jogDir (n : Nat) : Dir := if n = 1 then .opening else .closing

/-- The end in a direction. -/
def Dir.extreme : Dir → Extreme
  | .opening => .openEnd
  | .closing => .closedEnd

/-- A jog begins on a channel: it ends at once at an end at which the channel already rests (R146). -/
def State.beginJog (s : State) (c : Chan) (dir : Dir) (time : Nat) : State :=
  if (s.chan c).drv.restEnd = some dir.extreme then s
  else (s.modChan c (fun k => { k with drv.jog := some ⟨dir, time, none⟩ })).recompute c

/-- JOG on a channel: a jog still served ends first; an ABSENT channel takes no jog (R146, R176). -/
def State.startJog (s : State) (c : Chan) (dir : Dir) (time : Nat) : State :=
  if (s.chan c).state = .absent then s
  else
    let s1 := if (s.chan c).drv.jog.isSome then s.endJog c else s
    s1.beginJog c dir time

/-- JOG, acknowledged at its acceptance. -/
def State.serveJog (s : State) (channel direction time : Nat) : State :=
  match Quad.ofNumber channel with
  | some c => (s.ack []).startJog c (jogDir direction) time
  | none => s

/-- STOP: a jog served ends (R146, R176). -/
def State.serveStop (s : State) (channel : Nat) : State :=
  match Quad.ofNumber channel with
  | some c => if (s.chan c).drv.jog.isSome then (s.ack []).endJog c else s.ack []
  | none => s

/-- The entry of a bay. -/
def State.peerEntry (s : State) (bay : Nat) : Option PeerEntry := s.peer.entries.find? (fun e => e.bay == bay)

/-- The parts of an entry as READ PEER carries them. -/
def PeerEntry.partBytes (e : PeerEntry) : List Byte :=
  (match e.status with
   | some c => c.bytes
   | none => []) ++
  (match e.weather with
   | some h => natBytes (min 65535 (h.age / 100)) ++ h.report.bytes
   | none => []) ++
  (match e.health with
   | some h => h.bytes
   | none => [])

/-- The data of a READ PEER reply; its ages in 0.1 s are rounded down (log entry 41, the model's choice). -/
def peerBytes : Option PeerEntry → List Byte
  | none => [0#8, 0#8, 0#8]
  | some e =>
    char (bits4 ⟨true, e.status.isSome, e.weather.isSome, e.health.isSome⟩) :: (natBytes (e.age / 100) ++ e.partBytes)

/-- READ PEER: the entry of a bay with every part it holds. -/
def State.serveReadPeer (s : State) (bay : Nat) : State := s.ack (peerBytes (s.peerEntry bay))

/-! ## The tests of a request (R175) -/

/-- The station is in SERVICE mode, in which the port is active. -/
def State.inService (s : State) : Bool := decide (s.sup.mode = .service)

/-- A request whose sum, code and length are right: refused with BUSY during programming, with BAD_INDEX where a field of it is
out of range, else carried out. Outside SERVICE mode SRX is ignored. The bytes of an unfinished request and their timer stay as they are
(log entry 51, the model's choice for a whole request that comes between them). -/
def State.serve (s : State) (inRange : Bool) (act : State → State) : State :=
  if !s.inService then s
  else if s.svc.programming.isSome then s.refuse .busy
  else if !inRange then s.refuse .badIndex
  else act s

/-- Word index 0 to 63. -/
def indexInRange (i : Nat) : Bool := decide (i ≤ 63)

/-- Channel 1 to 4. -/
def channelInRange (c : Nat) : Bool := decide (1 ≤ c) && decide (c ≤ 4)

/-- Channel 1 to 4, direction 0 or 1, time 100 to 10000. -/
def jogInRange (channel direction time : Nat) : Bool :=
  channelInRange channel && decide (direction ≤ 1) && decide (100 ≤ time) && decide (time ≤ 10000)

/-- Bay 1 to 32. -/
def bayInRange (b : Nat) : Bool := decide (1 ≤ b) && decide (b ≤ 32)

/-- A JOG request, with what follows its jog. -/
def State.requestJog (s : State) (channel direction time : Nat) : State :=
  s.serve (jogInRange channel direction time) (fun u => (u.serveJog channel direction time).finish u)

/-- A STOP request, with what follows the end of the jog. -/
def State.requestStop (s : State) (channel : Nat) : State :=
  s.serve (channelInRange channel) (fun u => (u.serveStop channel).finish u)

/-- A request by its code and its data: refused with BAD_COMMAND where the code is not defined or the length not the one the
table gives; programming in progress is tested first. Every field of two bytes, of a request or a reply, has its high byte first, as R174
says it for READ WORD (log entry 40, the model's choice for the others). -/
def State.serveCode (s : State) (code : Nat) (data : List Byte) : State :=
  match code, data with
  | 1, [i] => s.serve (indexInRange i.toNat) (fun s => s.serveReadWord i.toNat)
  | 2, [i] => s.serve (indexInRange i.toNat) (fun s => s.serveReadStage i.toNat)
  | 3, [i, hi, lo] => s.serve (indexInRange i.toNat) (fun s => s.serveStageWord i.toNat (Word.ofBytes hi lo))
  | 4, [] => s.serve true State.serveProgram
  | 5, [] => s.serve true State.serveReadState
  | 6, [c, d, hi, lo] => s.requestJog c.toNat d.toNat (natOfBytes hi lo)
  | 7, [c] => s.requestStop c.toNat
  | 8, [b] => s.serve (bayInRange b.toNat) (fun s => s.serveReadPeer b.toNat)
  | _, _ => if s.svc.programming.isSome then s.refuse .busy else s.refuse .badCommand

/-- A complete request frame: its sum is tested first (R175). -/
def State.serveFrame (s : State) (frame : List Byte) : State :=
  if !sumsToZero frame then s.refuse .badSum
  else
    match frame with
    | code :: _ :: rest => s.serveCode code.toNat rest.dropLast
    | _ => s

/-- Whether the bytes of a request are all there: the code, the length, that many data bytes, and the sum. -/
def requestComplete (rx : List Byte) : Bool :=
  match rx with
  | _ :: n :: _ => decide (rx.length = n.toNat + 3)
  | _ => false

/-- A byte arrives at SRX in SERVICE mode (R175). -/
def State.takeByte (s : State) (b : Byte) : State :=
  let rx := s.svc.rx ++ [b]
  if requestComplete rx then { s with svc.rx := [], svc.rxTimer := none }.serveFrame rx
  else { s with svc.rx := rx, svc.rxTimer := some 50 }

/-- Some bytes arrive at SRX one after another. -/
def State.takeBytes (s : State) : List Byte → State
  | [] => s
  | b :: rest => (s.takeByte b).takeBytes rest

end Sys2Proof.Machine
end

