-- ==== Sys2Proof/Machine/ServiceCommands.lean ====
section
/-! DEFINITION. The commands of the service port (R174 to R177). A request command is a whole request with a right sum; bytes as
they come are BAD_COMMAND_REQUEST. -/

namespace Sys2Proof.Machine

open Sys2Proof

/-- REQUEST_TIMEOUT (R175): the bytes so far are discarded without reply. -/
def execRequestTimeout (s : State) : Host.Outcome State Fault Refusal :=
  .next { s with svc.rx := [], svc.rxTimer := none }

/-- READ_WORD (R176). -/
def execReadWord (index : Byte) (s : State) : Host.Outcome State Fault Refusal :=
  .next (s.serve (indexInRange index.toNat) (fun s => s.serveReadWord index.toNat))

/-- READ_STAGE (R176). -/
def execReadStage (index : Byte) (s : State) : Host.Outcome State Fault Refusal :=
  .next (s.serve (indexInRange index.toNat) (fun s => s.serveReadStage index.toNat))

/-- STAGE_WORD (R176). -/
def execStageWord (index : Byte) (value : Word) (s : State) : Host.Outcome State Fault Refusal :=
  .next (s.serve (indexInRange index.toNat) (fun s => s.serveStageWord index.toNat value))

/-- PROGRAM (R177). -/
def execProgram (s : State) : Host.Outcome State Fault Refusal := .next (s.serve true State.serveProgram)

/-- A staging word is written into the store with fresh check bits. -/
def State.writeStaged (s : State) (i : Nat) : State :=
  { s with cfg.store := writeStore s.cfg.store i (StoreWord.fresh (imageWord s.svc.staging i)) }

/-- PROGRAM_WORD_WRITTEN (R177): the next word begins, or after word 63 ACK is sent. -/
def execProgramWordWritten (s : State) : Host.Outcome State Fault Refusal :=
  .next
    (match s.svc.programming with
     | some i =>
       if 63 ≤ i then { s.writeStaged i with svc.programming := none, svc.programTimer := none }.ack []
       else { s.writeStaged i with svc.programming := some (i + 1), svc.programTimer := some 5 }
     | none => s)

/-- READ_STATE (R176). -/
def execReadState (s : State) : Host.Outcome State Fault Refusal := .next (s.serve true State.serveReadState)

/-- JOG (R146, R176). -/
def execJog (channel direction : Byte) (time : Word) (s : State) : Host.Outcome State Fault Refusal :=
  .next (s.requestJog channel.toNat direction.toNat time.toNat)

/-- STOP (R146, R176). -/
def execStop (channel : Byte) (s : State) : Host.Outcome State Fault Refusal :=
  .next (s.requestStop channel.toNat)

/-- READ_PEER (R176). -/
def execReadPeer (bay : Byte) (s : State) : Host.Outcome State Fault Refusal :=
  .next (s.serve (bayInRange bay.toNat) (fun s => s.serveReadPeer bay.toNat))

/-- BAD_COMMAND_REQUEST (R175): bytes arrive at SRX, and each complete request among them is tested. -/
def execBadCommandRequest (bytes : List Byte) (s : State) : Host.Outcome State Fault Refusal :=
  .next (if s.inService then s.takeBytes bytes else s)

end Sys2Proof.Machine
end

