-- ==== Sys2Proof/Machine/StartUp.lean ====
section
/-! DEFINITION. The start-up commands: the full reset with the load and the straps, presence detection, and the end of the
listen period (R158 to R162, R171, R178). -/

namespace Sys2Proof.Machine

open Sys2Proof

/-! ## FULL_RESET (R158, R159, R171) -/

/-- The own bay of a strap reading: its value plus 1 (R159). -/
def bayOfStraps (straps : BitVec 5) : Nat := straps.toNat + 1

/-- The Configuration Store after a load of its store and its factory row (R171). -/
def ConfigStore.loaded (c : ConfigStore) : ConfigStore :=
  let r := load c.store c.factory
  { c with image := r.image, outcome := r.outcome, lastCorrected := r.lastCorrected, fields := r.fields }

/-- The Supervision after a load of a store, with the straps as read (R159, R166, R169). -/
def ConfigStore.supervision (c : ConfigStore) (straps : BitVec 5) (svc : Bool) : Supervision :=
  let r := load c.store c.factory
  Supervision.afterReset (bayOfStraps straps) svc r.corrected r.lost r.clamped

/-- The part after a full reset: a programming in progress tears its word (R177), the store is loaded, and every block takes its
values after full reset. The commands that wait stay in the queue, which is the host's. -/
def State.fullReset (s : State) (straps : BitVec 5) (svc lineDominant : Bool) : State :=
  let s1 := s.abortProgramming
  { pending := s1.pending
    free := s1.free
    cfg := s1.cfg.loaded
    svc := Service.afterReset
    sup := s1.cfg.supervision straps svc
    line := LineUnit.afterReset lineDominant
    sched := Schedules.afterReset
    peer := PeerView.afterReset
    wx := WeatherUnit.afterReset
    fire := FireUnit.afterReset
    dem := DemandUnit.afterReset
    bud := BudgetUnit.afterReset
    lim := LimitUnit.afterReset
    ch := Four.all Channel.afterReset }

/-- FULL_RESET (R158). -/
def execFullReset (straps : BitVec 5) (svc lineDominant : Bool) (s : State) : Host.Outcome State Fault Refusal :=
  .next (s.fullReset straps svc lineDominant)

/-! ## PRESENCE_CHANNEL_TEST (R160) -/

/-- The result of a channel's test latches. -/
def State.latchChan (s : State) (c : Chan) (load : Bool) : State :=
  { s with sup.presence.ch := s.sup.presence.ch.set c (some load) }

/-- A channel found empty is ABSENT, with ABSENT_MISMATCH where the configuration, not LOST, marks it fitted (R160). -/
def State.takeAbsent (s : State) (c : Chan) : State :=
  let s1 := s.setChan c Channel.absent
  if (s.chFields c).fitted && decide (s.cfg.outcome ≠ .lost) then s1.addFault (channelCode c 4) else s1

/-- PRESENCE_CHANNEL_TEST (R160): once for each channel, in the presence phase. -/
def execPresenceChannelTest (c : Chan) (load : Bool) (s : State) : Host.Outcome State Fault Refusal :=
  .next
    (if decide (s.sup.phase = .presence) && (s.sup.presence.ch.get c).isNone then
       let s1 := s.latchChan c load
       if load then s1 else s1.takeAbsent c
     else s)

/-! ## PRESENCE_END (R49, R161) -/

/-- The result of a sensor's test, where it is fitted. -/
def sensorResult (fitted confirmed : Bool) : Option Bool := if fitted then some confirmed else none

/-- A sensor that is fitted and was not confirmed. -/
def failedTest (r : Option Bool) : Bool := decide (r = some false)

/-- A sensor that is fitted and was confirmed. -/
def confirmed (r : Option Bool) : Bool := decide (r = some true)

/-- The sensor tests latch, and the code of a failed one stands (R49, R161). -/
def State.latchSensors (s : State) (anemoBias : Bool) (vane rain heat : Raw) : State :=
  let a := sensorResult s.fields.anemoFitted anemoBias
  let v := sensorResult s.fields.vaneFitted (vaneInRange vane)
  let r := sensorResult s.fields.rainFitted (plateInRange rain)
  let h := sensorResult s.fields.heatFitted (plateInRange heat)
  let s1 := { s with sup.presence.anemo := a, sup.presence.vane := v, sup.presence.rain := r, sup.presence.heat := h }
  let s2 := if failedTest v then s1.addFault 48 else s1
  let s3 := if failedTest r then s2.addFault 9 else s2
  if failedTest h then s3.addFault 8 else s3

/-- The gate timer, the rain scan timer and the heat sample timer start for the confirmed sensors (R49). -/
def State.startScans (s : State) : State :=
  let p := s.sup.presence
  { s with
    wx.gateTimer := if confirmed p.anemo || confirmed p.vane then some 1000 else none
    wx.gateCount := 0
    wx.rainTimer := if confirmed p.rain then some s.fields.rainPeriod else none
    wx.heatTimer := if confirmed p.heat then some 1000 else none }

/-- The first duty window of a present channel begins, and it takes its first demand (R108, R148, R161). -/
def State.firstDemand (s : State) (c : Chan) : State :=
  if (s.chan c).state = .absent then s
  else
    let s1 := s.modChan c (fun k => k.newWindow s.fields)
    s1.takeAtRest c (s1.chan c).dem.win

/-- The end of presence detection (R161): the listen period of 3000 ms begins. -/
def State.endPresence (s : State) (anemoBias : Bool) (vane rain heat : Raw) (driverFlag : Bool) : State :=
  let s1 := { s with sup.phase := .listen, sup.listenTimer := some 3000 }.latchSensors anemoBias vane rain heat
  let s2 := s1.startScans.eachChan (fun c s => s.firstDemand c)
  if driverFlag then s2.startHold else s2

/-- PRESENCE_END (R161). -/
def execPresenceEnd (anemoBias : Bool) (vane rain heat : Raw) (driverFlag : Bool) (s : State) :
    Host.Outcome State Fault Refusal :=
  .next (if s.sup.phase = .presence then (s.endPresence anemoBias vane rain heat driverFlag).finish s else s)

/-! ## LISTEN_END (R34, R126, R162, R178) -/

/-- The mode entered at the end of the listen period (R162). -/
def entryMode (svc isolation : Bool) : Mode := if svc then .service else if isolation then .isolated else .normal

/-- At the entry to SERVICE mode the staging image is filled with the loaded image, and LOCAL and VENTILATE become absent on
every channel (R90, R178). -/
def State.enterService (s : State) : State :=
  let s1 := { s with svc.staging := s.cfg.image }
  s1.eachChan (fun c s => (s.handLocal c).handVentilate c)

/-- The schedules start: STATUS, HEALTH, WEATHER of a sensor station, VENTILATE where the demand input is fitted, and FIRE where a
local fire stands (R25, R30 to R34). -/
def State.startSchedules (s : State) : State :=
  let s1 := s.queueStatus.queueHealth
  let s2 := if s1.sensorStation then s1.queueWeather else s1
  let s3 := if s2.fields.demandFitted then s2.queueVentilate else s2
  if s3.localFire then s3.queueFire.refreshFire else s3

/-- The station leaves STARTING (R162). -/
def State.leaveStarting (s : State) : State :=
  let s1 := { s with
    sup.phase := .entry
    sup.listenTimer := none
    sup.mode := entryMode s.sup.svcStrap s.line.isolation }
  let s2 := if s.sup.svcStrap then s1.enterService else s1
  let s3 := s2.startSchedules
  let s4 := if s3.line.isolation then s3.setIsolatedTimer else s3
  s4.evalPulse

/-- LISTEN_END (R162). -/
def execListenEnd (s : State) : Host.Outcome State Fault Refusal :=
  .next (if decide (s.sup.phase = .listen) && s.sup.listenTimer.isSome then s.leaveStarting.finish s else s)

end Sys2Proof.Machine
end

