-- ==== Sys2Proof/Machine/SupplyCommands.lean ====
section
/-! DEFINITION. The commands of the motor supply monitor and of the lamp (R164, R165, R168). Supply readings are in 0.1 V. -/

namespace Sys2Proof.Machine

open Sys2Proof

/-- A timer that runs while a condition holds, from a length down, and is at rest otherwise (R164). -/
def runWhile (holds : Bool) (length : Nat) (t : Timer) : Timer :=
  if holds then (if t.isSome then t else some length) else none

/-- The four timers of the monitor after a reading: 20.0, 21.0, 29.0 and 30.0 V (R164, R165). -/
def Supervision.readSupply (u : Supervision) (v : Nat) : Supervision :=
  { u with
    lowEntry := runWhile (!u.low && decide (v < 200)) 100 u.lowEntry
    lowRecovery := runWhile (u.low && decide (210 < v)) 1000 u.lowRecovery
    highEntry := runWhile (!u.high && decide (300 < v)) 100 u.highEntry
    highRecovery := runWhile (u.high && decide (v < 290)) 1000 u.highRecovery }

/-- VMOT_READING (R164, R165). -/
def execVmotReading (decivolts : Nat) (s : State) : Host.Outcome State Fault Refusal :=
  .next (if s.detected then { s with sup := s.sup.readSupply decivolts } else s)

/-- The supply veto begins where neither condition stood (R165). -/
def State.vetoIfFirst (s : State) : State := if s.supplyVeto then s else s.beginSupplyVeto

/-- The supply veto ends where neither condition stands any more (R165). -/
def State.endVetoIfLast (s : State) : State := if s.supplyVeto then s else s.endSupplyVeto

/-- SUPPLY_LOW sets: the veto, its code, and the end of a programming in progress with REFUSED SUPPLY_LOW (R164, R165, R177). -/
def State.setLow (s : State) : State :=
  let s1 := { s.vetoIfFirst with sup.low := true, sup.lowEntry := none, sup.lowRecovery := none }.addFault 3
  if s.svc.programming.isSome then (s1.abortProgramming).refuse .supplyLow else s1

/-- SUPPLY_LOW_SET (R164). -/
def execSupplyLowSet (s : State) : Host.Outcome State Fault Refusal :=
  .next (if !s.sup.low && s.sup.lowEntry.isSome then s.setLow.finish s else s)

/-- SUPPLY_LOW clears (R164, R165). -/
def State.clearLow (s : State) : State :=
  ({ s with sup.low := false, sup.lowEntry := none, sup.lowRecovery := none }.removeFault 3).endVetoIfLast

/-- SUPPLY_LOW_CLEAR (R164). -/
def execSupplyLowClear (s : State) : Host.Outcome State Fault Refusal :=
  .next (if s.sup.low && s.sup.lowRecovery.isSome then s.clearLow.finish s else s)

/-- SUPPLY_HIGH sets (R165). -/
def State.setHigh (s : State) : State :=
  { s.vetoIfFirst with sup.high := true, sup.highEntry := none, sup.highRecovery := none }.addFault 4

/-- SUPPLY_HIGH_SET (R165). -/
def execSupplyHighSet (s : State) : Host.Outcome State Fault Refusal :=
  .next (if !s.sup.high && s.sup.highEntry.isSome then s.setHigh.finish s else s)

/-- SUPPLY_HIGH clears (R165). -/
def State.clearHigh (s : State) : State :=
  ({ s with sup.high := false, sup.highEntry := none, sup.highRecovery := none }.removeFault 4).endVetoIfLast

/-- SUPPLY_HIGH_CLEAR (R165). -/
def execSupplyHighClear (s : State) : Host.Outcome State Fault Refusal :=
  .next (if s.sup.high && s.sup.highRecovery.isSome then s.clearHigh.finish s else s)

/-- LAMP_CYCLE_STEP (R168): the next part of the cycle. -/
def execLampCycleStep (s : State) : Host.Outcome State Fault Refusal :=
  .next (if s.sup.lamp.timer.isSome then { s with sup.lamp := s.sup.lamp.next } else s)

end Sys2Proof.Machine
end

