-- ==== Sys2Proof/Machine/Dispatch.lean ====
section
/-! DEFINITION. The meaning of every command: one arm for each constructor. -/

namespace Sys2Proof.Machine

open Sys2Proof

def exec (i : Instr) (s : State) : Host.Outcome State Fault Refusal :=
  match i with
  | .fullReset straps svc lineDominant => Sys2Proof.Machine.execFullReset straps svc lineDominant s
  | .presenceChannelTest c load => Sys2Proof.Machine.execPresenceChannelTest c load s
  | .presenceEnd anemoBias vane rain heat driverFlag => Sys2Proof.Machine.execPresenceEnd anemoBias vane rain heat driverFlag s
  | .listenEnd => Sys2Proof.Machine.execListenEnd s
  | .noticeReceived rest => Sys2Proof.Machine.execNoticeReceived rest s
  | .gap => Sys2Proof.Machine.execGap s
  | .span11BitTimes => Sys2Proof.Machine.execSpan11BitTimes s
  | .recoveryComplete => Sys2Proof.Machine.execRecoveryComplete s
  | .spanRelease len => Sys2Proof.Machine.execSpanRelease len s
  | .lineStuck => Sys2Proof.Machine.execLineStuck s
  | .attemptBegin idle => Sys2Proof.Machine.execAttemptBegin idle s
  | .lostContention => Sys2Proof.Machine.execLostContention s
  | .echoFault => Sys2Proof.Machine.execEchoFault s
  | .cleanEcho => Sys2Proof.Machine.execCleanEcho s
  | .preemptiveBreak => Sys2Proof.Machine.execPreemptiveBreak s
  | .breakEnd released => Sys2Proof.Machine.execBreakEnd released s
  | .pulseBegin => Sys2Proof.Machine.execPulseBegin s
  | .pulseEnd released => Sys2Proof.Machine.execPulseEnd released s
  | .fireResend => Sys2Proof.Machine.execFireResend s
  | .overrideRepeat => Sys2Proof.Machine.execOverrideRepeat s
  | .statusPeriodic => Sys2Proof.Machine.execStatusPeriodic s
  | .statusSpacingExpiry => Sys2Proof.Machine.execStatusSpacingExpiry s
  | .weatherPeriod => Sys2Proof.Machine.execWeatherPeriod s
  | .vdemSample raw => Sys2Proof.Machine.execVdemSample raw s
  | .ventilatePeriod => Sys2Proof.Machine.execVentilatePeriod s
  | .healthPeriod => Sys2Proof.Machine.execHealthPeriod s
  | .reportExpiry bay => Sys2Proof.Machine.execReportExpiry bay s
  | .entryStale bay => Sys2Proof.Machine.execEntryStale bay s
  | .entryRemoval bay => Sys2Proof.Machine.execEntryRemoval bay s
  | .bayConflictExpiry => Sys2Proof.Machine.execBayConflictExpiry s
  | .gateEnd pulses vane => Sys2Proof.Machine.execGateEnd pulses vane s
  | .rainScan raw => Sys2Proof.Machine.execRainScan raw s
  | .heatSample raw => Sys2Proof.Machine.execHeatSample raw s
  | .stormClearExpiry => Sys2Proof.Machine.execStormClearExpiry s
  | .loopReading raw => Sys2Proof.Machine.execLoopReading raw s
  | .loopSettle => Sys2Proof.Machine.execLoopSettle s
  | .contactClearExpiry => Sys2Proof.Machine.execContactClearExpiry s
  | .generalTimerExpiry => Sys2Proof.Machine.execGeneralTimerExpiry s
  | .pulseTimerExpiry => Sys2Proof.Machine.execPulseTimerExpiry s
  | .fkeyReading openClosed closeClosed => Sys2Proof.Machine.execFkeyReading openClosed closeClosed s
  | .fkeyTaken => Sys2Proof.Machine.execFkeyTaken s
  | .overrideOriginExpiry bay => Sys2Proof.Machine.execOverrideOriginExpiry bay s
  | .lkeyReading openClosed closeClosed => Sys2Proof.Machine.execLkeyReading openClosed closeClosed s
  | .lkeyTaken => Sys2Proof.Machine.execLkeyTaken s
  | .ventilationOriginExpiry bay => Sys2Proof.Machine.execVentilationOriginExpiry bay s
  | .referenceTimerExpiry c => Sys2Proof.Machine.execReferenceTimerExpiry c s
  | .settleExpiry => Sys2Proof.Machine.execSettleExpiry s
  | .itemAgeOut bay => Sys2Proof.Machine.execItemAgeOut bay s
  | .isolatedStart => Sys2Proof.Machine.execIsolatedStart s
  | .hallPulse c => Sys2Proof.Machine.execHallPulse c s
  | .coastWindowClose c => Sys2Proof.Machine.execCoastWindowClose c s
  | .inrushMaskEnd c => Sys2Proof.Machine.execInrushMaskEnd c s
  | .currentReport c mean => Sys2Proof.Machine.execCurrentReport c mean s
  | .stall c => Sys2Proof.Machine.execStall c s
  | .overcurrent c => Sys2Proof.Machine.execOvercurrent c s
  | .noPulse c => Sys2Proof.Machine.execNoPulse c s
  | .openLoad c => Sys2Proof.Machine.execOpenLoad c s
  | .retryExpiry c => Sys2Proof.Machine.execRetryExpiry c s
  | .reversalPauseEnd c => Sys2Proof.Machine.execReversalPauseEnd c s
  | .jogTimerExpiry c => Sys2Proof.Machine.execJogTimerExpiry c s
  | .dutyWindowEnd c => Sys2Proof.Machine.execDutyWindowEnd c s
  | .runTick c => Sys2Proof.Machine.execRunTick c s
  | .throttleEnd c => Sys2Proof.Machine.execThrottleEnd c s
  | .driverFlagSet => Sys2Proof.Machine.execDriverFlagSet s
  | .thermalHoldEnd flag => Sys2Proof.Machine.execThermalHoldEnd flag s
  | .vmotReading decivolts => Sys2Proof.Machine.execVmotReading decivolts s
  | .supplyLowSet => Sys2Proof.Machine.execSupplyLowSet s
  | .supplyLowClear => Sys2Proof.Machine.execSupplyLowClear s
  | .supplyHighSet => Sys2Proof.Machine.execSupplyHighSet s
  | .supplyHighClear => Sys2Proof.Machine.execSupplyHighClear s
  | .lampCycleStep => Sys2Proof.Machine.execLampCycleStep s
  | .requestTimeout => Sys2Proof.Machine.execRequestTimeout s
  | .readWord index => Sys2Proof.Machine.execReadWord index s
  | .readStage index => Sys2Proof.Machine.execReadStage index s
  | .stageWord index value => Sys2Proof.Machine.execStageWord index value s
  | .program => Sys2Proof.Machine.execProgram s
  | .programWordWritten => Sys2Proof.Machine.execProgramWordWritten s
  | .readState => Sys2Proof.Machine.execReadState s
  | .jog channel direction time => Sys2Proof.Machine.execJog channel direction time s
  | .stop channel => Sys2Proof.Machine.execStop channel s
  | .readPeer bay => Sys2Proof.Machine.execReadPeer bay s
  | .startBitSample dominant => Sys2Proof.Machine.execStartBitSample dominant s
  | .characterEnd char stopRecessive => Sys2Proof.Machine.execCharacterEnd char stopRecessive s
  | .dominantEdge => Sys2Proof.Machine.execDominantEdge s
  | .badCommandRequest bytes => Sys2Proof.Machine.execBadCommandRequest bytes s

end Sys2Proof.Machine
end

