-- ==== Sys2Proof/Machine/Tick.lean ====
section
/-! DEFINITION. One millisecond of the station's time base with no command: every running timer has 1 ms less to run, every age is
1 ms more. What happens at an expiry is a command of its own (log entry 2). -/

namespace Sys2Proof.Machine

open Sys2Proof

/-- A running timer has 1 ms less to run; one at 0 waits for the command of its expiry. -/
def Timer.tick (t : Timer) : Timer := t.map (fun n => n - 1)

/-- An age is 1 ms more, up to the age that removes what has it. -/
def ageBy1 (most age : Nat) : Nat := min most (age + 1)

/-- The stall, overcurrent and open-load timers follow the current, which is outside the state, and stand. -/
def ChDrive.tick (d : ChDrive) : ChDrive :=
  { d with
    coast := Timer.tick d.coast
    inrushMask := Timer.tick d.inrushMask
    noPulseTimer := Timer.tick d.noPulseTimer
    reportTimer := Timer.tick d.reportTimer
    retryTimer := Timer.tick d.retryTimer
    reversalTimer := Timer.tick d.reversalTimer
    jog := d.jog.map (fun j => { j with timer := Timer.tick j.timer }) }

/-- The window and the throttle run; the run tick timer accumulates while the motor is driven and the channel is not throttled
(R149). -/
def ChLimit.tick (l : ChLimit) (driven : Bool) : ChLimit :=
  { l with
    window := Timer.tick l.window
    throttleTimer := Timer.tick l.throttleTimer
    tickAcc := if driven && !l.throttled then ageBy1 100 l.tickAcc else l.tickAcc }

/-- One channel. -/
def Channel.tick (k : Channel) : Channel :=
  { k with
    dem.refTimer := Timer.tick k.dem.refTimer
    drv := k.drv.tick
    lim := k.lim.tick k.driven }

/-- The line: a dominant span in progress grows, and a line without one has been recessive for 1 ms more, whatever the station drives
(R4, R6, R9): a pulse that does not reach the line leaves it recessive (R78). The break and the pulse run. -/
def LineUnit.tick (l : LineUnit) : LineUnit :=
  { l with
    span := l.span.map (fun n => n + lineMs 1)
    recessive := if l.span.isNone then l.recessive + lineMs 1 else l.recessive
    breakTimer := l.breakTimer.map (fun n => n - lineMs 1)
    pulseEndTimer := Timer.tick l.pulseEndTimer }

/-- The schedules. -/
def Schedules.tick (d : Schedules) : Schedules :=
  { d with
    fireResend := Timer.tick d.fireResend
    overrideRepeat := Timer.tick d.overrideRepeat
    statusPeriod := Timer.tick d.statusPeriod
    statusSpacing := Timer.tick d.statusSpacing
    weatherPeriod := Timer.tick d.weatherPeriod
    ventilatePeriod := Timer.tick d.ventilatePeriod
    healthPeriod := Timer.tick d.healthPeriod }

/-- A peer entry ages, up to the 60 s of its removal, and its report with it (R41). -/
def PeerEntry.tick (e : PeerEntry) : PeerEntry :=
  { e with age := ageBy1 60000 e.age, weather := e.weather.map (fun h => { h with age := h.age + 1 }) }

/-- The Peer View. -/
def PeerView.tick (p : PeerView) : PeerView :=
  { p with entries := p.entries.map PeerEntry.tick, conflictTimer := Timer.tick p.conflictTimer }

/-- The Weather Unit. -/
def WeatherUnit.tick (w : WeatherUnit) : WeatherUnit :=
  { w with
    gateTimer := Timer.tick w.gateTimer
    rainTimer := Timer.tick w.rainTimer
    heatTimer := Timer.tick w.heatTimer
    atrium := { w.atrium with stormTimer := Timer.tick w.atrium.stormTimer } }

/-- The Fire Unit; a peer's override origin ages up to the 15 s of its expiry (R83). -/
def FireUnit.tick (f : FireUnit) : FireUnit :=
  { f with
    candidateTimer := Timer.tick f.candidateTimer
    contactTimer := Timer.tick f.contactTimer
    generalTimer := Timer.tick f.generalTimer
    pulseTimer := Timer.tick f.pulseTimer
    keyTimer := Timer.tick f.keyTimer
    overrides := f.overrides.map (fun o => { o with age := o.age.map (ageBy1 15000) }) }

/-- The Demand Unit; a ventilation origin ages up to the 180 s of its expiry (R96). -/
def DemandUnit.tick (d : DemandUnit) : DemandUnit :=
  { d with
    keyTimer := Timer.tick d.keyTimer
    ventMap := d.ventMap.map (fun o => { o with age := ageBy1 180000 o.age }) }

/-- The Budget Unit; an item ages up to its 2000 ms (R112). -/
def BudgetUnit.tick (b : BudgetUnit) : BudgetUnit :=
  { b with
    items := b.items.map (fun i => { i with age := ageBy1 2000 i.age })
    settleTimer := Timer.tick b.settleTimer
    isoTimer := Timer.tick b.isoTimer
    lastIso := b.lastIso.map (fun n => n + 1) }

/-- Supervision. -/
def Supervision.tick (u : Supervision) : Supervision :=
  { u with
    listenTimer := Timer.tick u.listenTimer
    lowEntry := Timer.tick u.lowEntry
    lowRecovery := Timer.tick u.lowRecovery
    highEntry := Timer.tick u.highEntry
    highRecovery := Timer.tick u.highRecovery
    lamp := { u.lamp with timer := Timer.tick u.lamp.timer } }

/-- The service port. -/
def Service.tick (v : Service) : Service :=
  { v with rxTimer := Timer.tick v.rxTimer, programTimer := Timer.tick v.programTimer }

/-- One millisecond of the station. -/
def State.tick (s : State) : State :=
  { s with
    svc := s.svc.tick
    sup := s.sup.tick
    line := s.line.tick
    sched := s.sched.tick
    peer := s.peer.tick
    wx := s.wx.tick
    fire := s.fire.tick
    dem := s.dem.tick
    bud := s.bud.tick
    lim := { s.lim with holdTimer := Timer.tick s.lim.holdTimer }
    ch := ⟨s.ch.one.tick, s.ch.two.tick, s.ch.three.tick, s.ch.four.tick⟩ }

end Sys2Proof.Machine
end

