-- ==== Sys2Proof/Safety.lean ====
section
/-! DEFINITION. The words that claims use: a command completes, what a command leaves alone, and what every state of a run holds. -/

namespace Sys2Proof.Machine

open Sys2Proof

/-- A command run in a state answers a next state that has a property. -/
def completes (c : Instr) (s : State) (p : State → Prop) : Prop := ∃ t, exec c s = .next t ∧ p t

/-- A fault code that is not of one channel (R166). -/
def stationCode (n : Nat) : Bool := decide (n < 16) || decide (44 < n)

/-- A notice other than CLAIM and STATUS, which the starts of channels and the changes of the content of STATUS queue. -/
def Notice.scheduled (n : Notice) : Bool := !decide (n.kind = .claim) && !decide (n.kind = .status)

/-- A state with everything set aside that the demands and starts of the channels, and the end of a command, may change: the
channels with their fault codes, the own claim and the start timers, CLAIM and STATUS in the outgoing queue, the replacement of what
is in flight and the test of R13, the relay and the lamp, and the record of the last STATUS. What is left is untouched by them. -/
def State.kept (s : State) : State :=
  { s with
    sup.faults := s.sup.faults.filter stationCode
    sup.relay := false
    sup.lamp := Lamp.afterReset
    line.queue := s.line.queue.filter (fun e => e.notice.scheduled)
    line.flight := s.line.flight.map (fun f => { f with replaced := false })
    line.breakArmed := false
    sched.lastStatus := none
    sched.statusPeriod := none
    sched.statusSpacing := none
    bud.own := OwnClaim.none
    bud.settleTimer := none
    bud.isoTimer := none
    bud.isoOpen := false
    bud.lastIso := none
    ch := Four.all Channel.afterReset }

/-! ## The end of a command -/

/-- What the Limit Unit, the Fire Unit and the Weather Unit keep of a channel, the sources handed over to it, and its count with the
reference and the 7-day timer: all that neither a demand nor a start touches. -/
def Channel.held (k : Channel) : Sources × ChLimit × ChFire × ChWind × Nat × Bool × Timer :=
  (k.src, k.lim, k.fire, k.wind, k.drv.count, k.drv.referenced, k.dem.refTimer)

/-- An entry of another kind than STATUS. -/
def otherNotice (e : QueueEntry) : Bool := decide (e.notice.kind ≠ .status)

/-- What the station reports differs from the STATUS last queued as R30 lists: in its mode, its zone, the alarmed zones, the general flag,
its current by 5 or more, or a channel's state or source, or its position by 20 or more or to become 0 or 1000. -/
abbrev StatusContent.reportDue (last now : StatusContent) : Prop :=
  last.mode ≠ now.mode ∨ last.zone ≠ now.zone ∨ last.fireZones ≠ now.fireZones ∨ last.general ≠ now.general ∨
    last.current + 5 ≤ now.current ∨ now.current + 5 ≤ last.current ∨
    ∃ p ∈ last.channels.zip now.channels, p.1.state ≠ p.2.state ∨ p.1.source ≠ p.2.source ∨
      p.1.position + 20 ≤ p.2.position ∨ p.2.position + 20 ≤ p.1.position ∨
      (p.1.position ≠ p.2.position ∧ (p.2.position = 0 ∨ p.2.position = 1000))

/-- The change-caused STATUS (R30) of a command that leaves the state t, where u is before its end: outside STARTING, with the spacing over
and a change that R30 lists, it is queued at once with the content of t, and else not. The records of the last STATUS are those
of the channels that are not ABSENT, which no command but a full reset changes. -/
structure State.ShowsStatus (t u : State) : Prop where
  queued : u.starting = false → u.sched.statusSpacing = none → ∀ last ∈ u.sched.lastStatus,
    last.channels.length = t.statusContent.channels.length → last.reportDue t.statusContent →
    t.sched.lastStatus = some t.statusContent ∧ t.sched.statusPeriod = some 5000 ∧ t.sched.statusSpacing = some 200 ∧
      ∃ e ∈ t.line.queue, e.notice = .status t.statusContent
  unqueued : u.starting = true ∨ u.sched.statusSpacing ≠ none ∨ (∀ last ∈ u.sched.lastStatus,
      last.channels.length = t.statusContent.channels.length ∧ ¬last.reportDue t.statusContent) →
    t.sched.lastStatus = u.sched.lastStatus ∧ t.sched.statusPeriod = u.sched.statusPeriod ∧
      t.sched.statusSpacing = u.sched.statusSpacing ∧
      t.line.queue.filter (fun e => !otherNotice e) = u.line.queue.filter (fun e => !otherNotice e)

/-- The end of a command calls for a claim: none is live where starts are made by claims, the supply veto does not stand and a channel
waits (R114), or the live one is no fire claim and a channel waits for FIRE or OVERRIDE (R124). -/
def State.formsClaim (s : State) : Bool :=
  if s.bud.own.state = .none then s.claimsAllowed && !s.supplyVeto && !(s.chansIn .waiting).isEmpty
  else !s.bud.own.fire && Quad.all.any s.waitsHigh

/-- A state is another one but for what the end of a command does (log entry 11): channels that wait may be started, a claim may
be formed or decided, a STATUS may be queued, and the relay and the lamp follow. All else is as in the other state. -/
structure State.Follows (t u : State) : Prop where
  /-- Everything but the channels, the own claim and what shows them. -/
  kept : t.kept = u.kept
  /-- A channel that does not wait (R126). -/
  resting : ∀ c, (u.chan c).state ≠ .waiting → t.chan c = u.chan c
  /-- Of a channel that waits, all that a start does not touch. -/
  held : ∀ c, (t.chan c).held = (u.chan c).held
  /-- The fault codes of a channel that does not wait (R140). -/
  codes : ∀ c cause, cause ≤ 4 → (u.chan c).state ≠ .waiting →
    (channelCode c cause ∈ t.sup.faults ↔ channelCode c cause ∈ u.sup.faults)
  /-- With no isolated start allowed only the channels of a deferred claim can be started (R120, R121, R126). -/
  unstarted : u.bud.isoOpen = false → ∀ c, u.bud.own.state ≠ .deferred ∨ u.bud.own.channels.get c = false → t.chan c = u.chan c
  /-- A channel that waits is as it was, or started (R130), with no isolated start allowed beside a deferred claim (R126). -/
  started : u.bud.isoOpen = false ∨ u.bud.own.state ≠ .deferred → ∀ c, t.chan c = u.chan c ∨ t.chan c = (u.startChan c).chan c
  /-- A claim that the end of the command calls for is formed, and its CLAIM queued (R114, R115, R124). -/
  formed : u.bud.isoOpen = false → u.formsClaim = true →
    t.bud.own = u.selectClaim ∧ t.line.queue.filter otherNotice =
      (u.queueNotice (.claim u.selectClaim.channels u.selectClaim.inrush u.selectClaim.fire)).line.queue.filter otherNotice
  /-- Where it calls for none, and the live claim is not deferred, the claims, the starts and the notices but STATUS are as they were. -/
  unclaimed : u.bud.isoOpen = false → u.formsClaim = false → u.bud.own.state ≠ .deferred →
    t.bud = u.bud ∧ t.line.queue.filter otherNotice = u.line.queue.filter otherNotice
  /-- With no channel waiting and no live claim, nothing is started and nothing is claimed. -/
  quiet : (∀ c, (u.chan c).state ≠ .waiting) → u.bud.own.state = .none → t.bud = u.bud ∧
    t.line.queue.filter otherNotice = u.line.queue.filter otherNotice
  /-- A STATUS is queued where the change calls for one (R30). -/
  status : t.ShowsStatus u
  /-- The fault relay (R167). -/
  relay : t.sup.relay = (t.detected && t.sup.faults.isEmpty)
  /-- The lamp (R168). -/
  lamp : t.sup.lamp = if t.lampPattern = u.sup.lamp.pattern then u.sup.lamp else lampStart t.lampPattern

/-- A state with every channel that is not ABSENT changed. -/
def State.onPresent (s : State) (f : Chan → Channel → Channel) : State :=
  let g : Chan → Channel := fun c => if (s.chan c).state = .absent then s.chan c else f c (s.chan c)
  { s with ch := ⟨g .one, g .two, g .three, g .four⟩ }

/-- The LOCAL source of every channel as the taken key gives it (R91). -/
def State.withLocal (s : State) : State := s.onPresent (fun _ k => { k with src.localKey := s.localSource })

/-- The VENTILATE source of every channel as the ventilation map and its limit give it (R97). -/
def State.withVentilate (s : State) : State := s.onPresent (fun c k => { k with src.ventilate := s.ventilateSource c })

/-- The WEATHER source of every channel as the atrium weather record gives it (R64). -/
def State.withWeather (s : State) : State := s.onPresent (fun _ k => { k with src.weather := s.wx.atrium.closes })

/-- A channel with a fire record, and the fire demand as its FIRE source (R86, R87). -/
def Channel.withFire (k : Channel) (f : ChFire) : Channel :=
  { k with fire := f, src.fire := ({ k with fire := f } : Channel).fireDemand }

/-- The fire action, the capture and the FIRE source of every channel as the alarmed columns give them (R85 to R87). -/
def State.withFire (s : State) : State :=
  s.onPresent (fun c k => k.withFire ⟨s.fireAction c, s.newCapture c (s.fireAction c)⟩)

/-- A channel with the results of the windward arithmetic and the sources that follow them: V capped at L, and the fire demand under the
block (R64, R69, R87, R97). -/
def Channel.withWind (k : Channel) (w : ChWind) (vent : Option Nat) (closes : Bool) : Channel :=
  { k with
    wind := w
    src.ventilate := vent.map (fun v => min v w.limit)
    src.fire := ({ k with wind := w } : Channel).fireDemand
    src.weather := closes }

/-- The ventilation target V where it counts: nothing in SERVICE mode (R90, R97). -/
def State.ventV (s : State) : Option Nat := if s.sup.mode = .service then none else ventTarget s.dem.ventMap

/-- The windward results of every channel under the atrium weather record, and the sources that follow. -/
def State.withWind (s : State) : State :=
  s.onPresent (fun c k => k.withWind (s.windAfter s.wx.atrium c) s.ventV s.wx.atrium.closes)

/-- The OVERRIDE source of every channel as the override map gives it, where the effective override changes (R84). -/
def State.withOverride (s : State) (before : List OverrideOrigin) : State :=
  if effectiveOverride s.fire.overrides = effectiveOverride before then s
  else s.onPresent (fun _ k => { k with src.override := effectiveOverride s.fire.overrides })

/-- At most one of the five sources that are handed over to a channel differs. -/
def Sources.near (a b : Sources) : Bool :=
  decide ((decide (a.override ≠ b.override)).toNat + (decide (a.fire ≠ b.fire)).toNat + (decide (a.weather ≠ b.weather)).toNat +
    (decide (a.localKey ≠ b.localKey)).toNat + (decide (a.ventilate ≠ b.ventilate)).toNat ≤ 1)

/-- A state follows the state s that a command began in and the state u, which is s but that the causes and sources of the channels have
changed and their winners have not: each channel takes its changed winner by the posting rules (section 6.4), and the end of the command does
what State.Follows says. -/
structure State.Redemands (t s u : State) : Prop where
  /-- Everything but the channels, the own claim and what shows them. -/
  kept : t.kept = u.kept
  /-- Of every channel, all that neither a demand nor a start touches. -/
  held : ∀ c, (t.chan c).held = (u.chan c).held
  /-- A channel that does not wait and whose winner does not change (R92). -/
  settled : ∀ c, (u.chan c).state ≠ .waiting → (u.chan c).state = .absent ∨ u.winner c = (u.chan c).dem.win →
    t.chan c = u.chan c
  /-- A channel of which one source changes is posted as State.recompute posts it (R92, R99 to R107): so it stands, or is started where
  it is of a deferred claim, with no isolated start allowed (R120, R121, R126). Of several sources that change at once each is posted in
  turn (R92), and a limit veto that begins ends a reference (R104, R105): there this clause says nothing. -/
  posted : u.bud.isoOpen = false → ∀ c, (u.chan c).state ≠ .absent → s.winner c = (s.chan c).dem.win →
    (s.chan c).src.near (u.chan c).src = true →
    (s.chan c).lim.veto = (u.chan c).lim.veto ∨ (s.chan c).dem.movement.map Movement.kind ≠ some .reference →
    (u.bud.own.state ≠ .deferred ∨ u.bud.own.channels.get c = false → t.chan c = (u.recompute c).chan c) ∧
      (t.chan c = (u.recompute c).chan c ∨ t.chan c = ((u.recompute c).startChan c).chan c)
  /-- A STATUS is queued where the change calls for one (R30). -/
  status : t.ShowsStatus u
  /-- The fault relay (R167). -/
  relay : t.sup.relay = (t.detected && t.sup.faults.isEmpty)
  /-- The lamp (R168). -/
  lamp : t.sup.lamp = if t.lampPattern = u.sup.lamp.pattern then u.sup.lamp else lampStart t.lampPattern

/-- A state after a valid notice of another bay has been taken, its content aside: the receiver idle, the notice counted, the sender's
entry refreshed with a part of it (R5, R16, R37). -/
def State.heardFrom (s : State) (bay : Nat) (part : PeerEntry → PeerEntry) : State :=
  { s with
    line.receiver := .idle
    line.recessive := 0
    line.span := none
    line.spanLong := false
    line.breakArmed := false
    line.breakAtEnd := false
    line.valid := min 65535 (s.line.valid + 1)
    peer.entries := refreshPeer bay part s.peer.entries }

/-- A state after the attempt in flight has ended with another outgoing queue: the terminal is released where it drives the notice
(R12). -/
def State.afterAttempt (s : State) (queue : List QueueEntry) : State :=
  { s with
    line.flight := none
    line.drive := if s.line.drive = .notice then .released else s.line.drive
    line.queue := queue }

/-- The outgoing queue after a failed attempt that drops nothing: the count of its entry is 1 more (R12), but a CLAIM whose attempt fails
while the isolation condition stands has left it (R127, log entry 50). -/
def State.queueAfterFail (s : State) (f : Flight) : List QueueEntry :=
  if s.line.isolation = true ∧ f.content.kind = .claim then s.line.queue.filter (fun e => decide (e.notice.kind ≠ .claim))
  else s.line.queue.map (fun e => if e.notice.key = f.content.key then { e with failed := e.failed + 1 } else e)

/-- A state after the isolation condition has been set, the start timers and the own claim aside: ISOLATED in the fault set, NORMAL
becomes ISOLATED, and outside STARTING a local fire requests its first pulse, LINE_STUCK dropping the request (R14, R17, R79). -/
def State.withIsolation (s : State) : State :=
  { s with
    line.isolation := true
    line.pulseRequested := s.line.pulseRequested || (s.localFire && !s.starting && !s.sup.faults.contains 1)
    sup.faults := insertCode 15 s.sup.faults
    sup.mode := if s.sup.mode = .normal then .isolated else s.sup.mode
    fire.pulseTimer := if s.localFire && !s.starting then some 5000 else none }

/-- A state with another atrium weather record: WEATHER_UNKNOWN follows its unknown flag, and the windward results and the sources of every
channel follow the record (R60, R62, R64, R69). -/
def State.withAtrium (s : State) (r : Atrium) : State := State.withWind ({ s with wx.atrium := r }.faultIf 10 r.unknown)

/-- A state with another own report: a report that differs recombines the atrium weather record (R55, R60). -/
def State.withReport (s : State) (r : Report) : State :=
  if r = s.wx.own then s else { s with wx.own := r }.withAtrium { s with wx.own := r }.combined

/-- A state with other causes of the local fire: the notice they call for queued, its counterpart withdrawn, the own bay in or out of the
origin set of the own zone, the pulses and the fire demands following (R25, R26, R74, R75, R79). -/
def State.withCauses (s : State) (contact heat : Bool) : State :=
  let s1 : State := { s with fire.contact := contact, fire.heat := heat }
  let set : List Nat := s.fire.origins.get s.zone
  let s2 : State :=
    if contact || heat then
      { (s1.withdraw (.fireClear, some s.zone)).queueNotice (.fire s.zone contact heat) with
        sched.fireResend := some 10000
        fire.origins := s.fire.origins.set s.zone (if s.bay ∈ set ∨ 8 ≤ set.length then set else set ++ [s.bay]) }
    else
      { (s1.withdraw (.fire, some s.zone)).queueNotice (.fireClear s.zone) with
        sched.fireResend := none
        fire.origins := s.fire.origins.set s.zone (set.filter (fun b => b != s.bay)) }
  s2.evalPulse.withFire

/-- An alarmed column gives a channel an action: the general column while the general timer runs, and the column of a zone while its origin
set is non-empty or the general timer runs (R78, R85). -/
abbrev State.alarmGives (s : State) (c : Chan) (a : FireAction) : Prop :=
  (s.fire.generalTimer.isSome = true ∧ s.fields.responseGeneral.get c = a) ∨
    ∃ z, (s.fire.origins.get z ≠ [] ∨ s.fire.generalTimer.isSome = true) ∧ (s.fields.response.get z).get c = a

/-- No two items of a list agree in a value. -/
def distinctBy {α β : Type} [BEq β] (f : α → β) : List α → Bool
  | [] => true
  | a :: rest => !(rest.any (fun b => f b == f a)) && distinctBy f rest

/-- The own claim passes its test against the list, in which it has its own item: a non-fire claim where no item is fire-flagged, the
items ahead and the own item fit A_start, and the reckoned running current and the ratings of the claim fit A_run (R118); a fire
claim where the fire-flagged items ahead and the own item fit A_fire (R119). -/
abbrev State.passes (s : State) (own : StartItem) : Prop :=
  if s.bud.own.fire = true then
    (((s.bud.items.takeWhile (fun i => i.bay != s.bay)).filter (·.fire)).map (·.inrush)).sum + own.inrush ≤ s.fields.aFire
  else
    (∀ i ∈ s.bud.items, i.fire = false) ∧
      ((s.bud.items.takeWhile (fun i => i.bay != s.bay)).map (·.inrush)).sum + own.inrush ≤ s.fields.aStart ∧
      s.reckoned + ((Quad.all.filter s.bud.own.channels.get).map (fun c => (s.chFields c).run)).sum ≤ s.fields.aRun

/-- The list holds one item of a bay at most, and an item is the own one (R110). -/
abbrev State.ownItem (s : State) (own : StartItem) : Prop :=
  own ∈ s.bud.items ∧ own.bay = s.bay ∧ distinctBy (·.bay) s.bud.items = true

/-- The live claim is not superseded: it is a fire claim, or no channel waits for FIRE or OVERRIDE (R124). -/
abbrev State.notSuperseded (s : State) : Prop := s.bud.own.fire = true ∨ ∀ c, s.waitsHigh c = false

/-- The waiting channels of a set are started, each whose movement has a direction by it, and no other channel is touched (R120,
R130). -/
structure State.Grants (t u : State) (set : Four Bool) : Prop where
  /-- Everything but the channels, the own claim and what shows them. -/
  kept : t.kept = u.kept
  started : ∀ c m d, set.get c = true → (u.chan c).state = .waiting → (u.chan c).dem.movement = some m →
    (u.chan c).startDir (u.stroke c) m = some d → t.chan c = (u.chan c).started m (some d) (u.chFields c).run
  resting : ∀ c, set.get c = false ∨ (u.chan c).state ≠ .waiting → t.chan c = u.chan c
  /-- The relay and the lamp (R167, R168). -/
  relay : t.sup.relay = (t.detected && t.sup.faults.isEmpty)

/-- The grant of the own claim (R120): its channels that wait are started, it ends, and the formation test runs at once. Where the station
starts by claims, the supply veto does not stand and a channel waits after the starts, a claim is formed from those that then wait and
its CLAIM queued (R114, R115); else no claim is live. -/
structure State.ClaimGranted (t u : State) : Prop where
  grants : t.Grants u u.bud.own.channels
  formed : u.claimsAllowed = true → u.supplyVeto = false → (∃ c, (t.chan c).state = .waiting) →
    t.bud.own = t.selectClaim ∧ t.line.queue.filter otherNotice =
      (u.queueNotice (.claim t.selectClaim.channels t.selectClaim.inrush t.selectClaim.fire)).line.queue.filter otherNotice
  ended : u.claimsAllowed = false ∨ u.supplyVeto = true ∨ (∀ c, (t.chan c).state ≠ .waiting) →
    t.bud.own = OwnClaim.none ∧ t.line.queue.filter otherNotice = u.line.queue.filter otherNotice
  /-- The list keeps its items, the own one with them. -/
  items : t.bud.items = u.bud.items ∧ t.bud.settleTimer = none

/-- A claim in DEFERRED that is decided again by the list of v (R121): it is granted where it passes its test; else the claim, the list
and the channels are as in u. -/
structure State.Rechecks (t u v : State) (own : StartItem) : Prop where
  granted : v.passes own → t.ClaimGranted u
  deferred : ¬v.passes own → t.bud = { u.bud with settleTimer := none } ∧ ∀ c, t.chan c = u.chan c

/-- The code and the data of the request that a command stands for; none for a command that is no request (R174). -/
def requestOf : Instr → Option (Byte × List Byte)
  | .readWord index => some (1#8, [index])
  | .readStage index => some (2#8, [index])
  | .stageWord index value => some (3#8, [index, value.hi, value.lo])
  | .program => some (4#8, [])
  | .readState => some (5#8, [])
  | .jog channel direction time => some (6#8, [channel, direction, time.hi, time.lo])
  | .stop channel => some (7#8, [channel])
  | .readPeer bay => some (8#8, [bay])
  | _ => none

/-- The data lengths of the eight requests, by their code (R174). -/
def requestLengths : List Nat := [1, 1, 3, 0, 0, 4, 1, 1]

/-- The fields of a request are in their ranges (R175, test 4). -/
def fieldsInRange : Instr → Bool
  | .readWord index => decide (index.toNat ≤ 63)
  | .readStage index => decide (index.toNat ≤ 63)
  | .stageWord index _ => decide (index.toNat ≤ 63)
  | .jog channel direction time =>
    decide (1 ≤ channel.toNat ∧ channel.toNat ≤ 4 ∧ direction.toNat ≤ 1 ∧ 100 ≤ time.toNat ∧ time.toNat ≤ 10000)
  | .stop channel => decide (1 ≤ channel.toNat ∧ channel.toNat ≤ 4)
  | .readPeer bay => decide (1 ≤ bay.toNat ∧ bay.toNat ≤ 32)
  | _ => true

/-- A command ends the supply veto, and leaves the state v before the channels go on (R94, R164, R165). The monitor runs from the end of
presence detection on (R161). -/
abbrev State.vetoEnds (s v : State) (c : Instr) : Prop :=
  s.detected = true ∧
  ((c = .supplyLowClear ∧ s.sup.low = true ∧ s.sup.high = false ∧ s.sup.lowRecovery.isSome = true ∧ v = { s with
    sup.low := false, sup.lowEntry := none, sup.lowRecovery := none, sup.faults := s.sup.faults.filter (fun n => n != 3) }) ∨
  (c = .supplyHighClear ∧ s.sup.low = false ∧ s.sup.high = true ∧ s.sup.highRecovery.isSome = true ∧ v = { s with
    sup.high := false, sup.highEntry := none, sup.highRecovery := none, sup.faults := s.sup.faults.filter (fun n => n != 4) }))

/-- A command begins the limit veto of a channel, whose record becomes l (R150, R153, R155). -/
abbrev State.limitBegins (s : State) (c : Chan) (l : ChLimit) (cmd : Instr) : Prop :=
  (s.chan c).lim.veto = false ∧
  ((cmd = .driverFlagSet ∧ s.detected = true ∧ s.lim.hold = false ∧ l = { (s.chan c).lim with veto := true }) ∨
   (cmd = .runTick c ∧ (s.chan c).lim.throttled = false ∧
    (100 ≤ (s.chan c).lim.tickAcc ∨ ((s.chan c).driven = true ∧
      ((s.chan c).lim.window ≠ some (s.fields.dutyWindow * 1000) ∨ (s.chan c).lim.tickAcc ≠ 0))) ∧
    s.fields.dutyWindow * 10 * s.fields.duty / 100 ≤ (s.chan c).lim.runCounter + 1 ∧
    l = { window := none, tickAcc := 0, runCounter := (s.chan c).lim.runCounter + 1, throttled := true
          throttleTimer := some (s.fields.throttleFactor * (s.fields.dutyWindow * 1000)), veto := true }))

/-- A command ends the limit veto of a channel, whose record becomes l (R152, R154, R155). -/
abbrev State.limitEnds (s : State) (c : Chan) (l : ChLimit) (cmd : Instr) : Prop :=
  (s.chan c).lim.veto = true ∧
  ((cmd = .thermalHoldEnd false ∧ s.lim.hold = true ∧ s.lim.holdTimer.isSome = true ∧ (s.chan c).lim.throttled = false ∧
    l = { (s.chan c).lim with veto := false }) ∨
   (cmd = .throttleEnd c ∧ (s.chan c).lim.throttled = true ∧ (s.chan c).lim.throttleTimer.isSome = true ∧ s.lim.hold = false ∧
    l = { window := some (s.fields.dutyWindow * 1000), tickAcc := 0, runCounter := 0, throttled := false
          throttleTimer := none, veto := false }))

/-- A REFERENCE movement waits or is driven on a channel that takes a winner w as it ends: any winner on a referenced channel that waits,
and otherwise none or the target 0. -/
abbrev State.referenceMeets (s : State) (c : Chan) (w : Winner) : Prop :=
  (s.chan c).dem.movement.map Movement.kind = some .reference ∧
  (((s.chan c).state = .waiting ∧ (s.chan c).drv.referenced = true) ∨
   (((s.chan c).state = .waiting ∨ (s.chan c).state = .referencing) ∧ (w = none ∨ ∃ src, w = some (src, .pos 0))))

/-- A channel whose REFERENCE movement a veto of reference runs takes away: driven, it is stopped; in its rest state it takes the winner w,
for which an ORDINARY movement is formed where the target calls for one, and always on an UNREFERENCED channel (R104, R105, R156). -/
def State.withoutReference (s : State) (c : Chan) (w : Winner) : Channel :=
  let k := s.chan c
  let rest : Channel := { (if k.driven then k.release else k) with
    state := if k.drv.referenced then .idle else .unreferenced
    dem.win := w, dem.movement := none, dem.pending := none }
  match w with
  | some (src, .pos n) =>
    if k.drv.referenced = false ∨ s.callsMovement c n = true then
      { rest with state := .waiting, dem.movement := some ⟨.ordinary, n, some src⟩ }
    else rest
  | _ => rest

/-- No start can be made on a channel at the end of a command but that of a claim formed later: no isolated start is allowed, and the channel
is of no deferred claim (R120, R126). -/
abbrev State.noStart (s : State) (c : Chan) : Prop :=
  s.bud.isoOpen = false ∧ (s.bud.own.state ≠ .deferred ∨ s.bud.own.channels.get c = false)

/-- In STARTING no motor is driven, the line is released, nothing is in flight, no claim is live and no CLAIM queued, and no start is allowed
(R1, R28, R126, R128). -/
structure State.StartingQuiet (s : State) : Prop where
  released : s.line.drive = .released
  noFlight : s.line.flight = none
  noClaim : s.bud.own.state = .none
  /-- No CLAIM is queued (R28). -/
  noNotice : ∀ e ∈ s.line.queue, e.notice.kind ≠ .claim
  noSlot : s.bud.isoTimer = none ∧ s.bud.isoOpen = false
  still : ∀ c, (s.chan c).driven = false

/-! ## What every state of a run holds -/

/-- The codes of a list are strictly ascending (R33, R166). -/
def ascending : List Nat → Bool
  | [] => true
  | a :: rest => ascendingFrom a rest

/-- The fault set is kept in strictly ascending order of code, so that a code is present at most once (R166). -/
def State.faultsWf (s : State) : Bool := ascending s.sup.faults

/-- The counters of the Line Unit are within their ranges (R11, R16). -/
def LineUnit.countersWf (l : LineUnit) : Bool :=
  decide (l.valid ≤ 65535) && decide (l.discard ≤ 255) && decide (l.dropped ≤ 255) && decide (l.echoRun ≤ 8)

/-- The start list holds at most 16 items, at most one of a bay (R110). -/
def BudgetUnit.itemsWf (b : BudgetUnit) : Bool := decide (b.items.length ≤ 16) && distinctBy (·.bay) b.items

/-- An origin set holds at most 8 distinct bays (R76). -/
def originsWf (l : List Nat) : Bool := decide (l.length ≤ 8) && distinctBy id l

/-- Every zone's origin set is well formed. -/
def FireUnit.recordsWf (f : FireUnit) : Bool :=
  originsWf f.origins.one && originsWf f.origins.two && originsWf f.origins.three && originsWf f.origins.four

/-- The override map holds at most 4 origins, at most one of a bay (R81). -/
def FireUnit.overridesWf (f : FireUnit) : Bool := decide (f.overrides.length ≤ 4) && distinctBy (·.bay) f.overrides

/-- The ventilation map holds at most 4 origins, at most one of a bay (R95). -/
def DemandUnit.ventWf (d : DemandUnit) : Bool := decide (d.ventMap.length ≤ 4) && distinctBy (·.bay) d.ventMap

/-- The count of every channel lies within 0 to the stroke (R131). -/
def State.countsWf (s : State) : Bool := Quad.all.all (fun c => decide ((s.chan c).drv.count ≤ s.stroke c))

/-- The outgoing queue holds at most one notice for each key (R15). -/
def LineUnit.keysWf (l : LineUnit) : Bool := distinctBy (fun e => e.notice.key) l.queue

/-- The outgoing queue is in the order of the classes: ALARM, then MOTION, then ROUTINE (R15). -/
def classOrder : List QueueEntry → Bool
  | a :: b :: rest => decide (a.notice.noticeClass.rank ≤ b.notice.noticeClass.rank) && classOrder (b :: rest)
  | _ => true

/-- The eight keys of a station's notices: FIRE and FIRE CLEAR of its own zone, and the other kinds (R15). -/
def stationKeys (z : Zone) : List (Kind × Option Zone) :=
  [(.fire, some z), (.fireClear, some z), (.override, none), (.claim, none), (.status, none), (.weather, none),
    (.ventilate, none), (.health, none)]

/-- Every notice of the outgoing queue has one of the station's keys (R15, R25, R26). -/
def State.placesWf (s : State) : Bool := s.line.queue.all (fun e => decide (e.notice.key ∈ stationKeys s.zone))

/-- The peer map holds no entry under the own bay and at most one for a bay (R35). -/
def State.peersWf (s : State) : Bool :=
  !(s.peer.entries.any (fun e => e.bay == s.bay)) && distinctBy (·.bay) s.peer.entries

/-- What every state of a run holds, whatever commands are sent. -/
structure State.Inv (s : State) : Prop where
  faults : s.faultsWf = true
  counters : s.line.countersWf = true
  items : s.bud.itemsWf = true
  records : s.fire.recordsWf = true
  overrides : s.fire.overridesWf = true
  vents : s.dem.ventWf = true
  peers : s.peersWf = true
  store : storeWf s.cfg.store = true
  keys : s.line.keysWf = true
  order : classOrder s.line.queue = true
  places : s.placesWf = true

/-! ## The channels -/

/-- What a channel holds in each of its states (R129, R130, R140, R144): the motor is driven, with a direction and a reported
current, in RUNNING and REFERENCING alone; a movement is in hand in WAITING, RUNNING and REFERENCING alone; the reversal pause runs in
REVERSING; IDLE is referenced and UNREFERENCED is not; a retry waits in FAULTED alone. -/
def Channel.wf (k : Channel) : Bool :=
  decide (k.drv.dir.isSome = k.driven) && decide (k.drv.current.isSome = k.driven) &&
    (decide (k.state = .faulted) || (k.drv.retryTimer.isNone && !k.drv.retryHeld)) &&
    (match k.state with
     | .absent => decide (k = Channel.absent)
     | .unreferenced => k.dem.movement.isNone && !k.drv.referenced
     | .idle => k.dem.movement.isNone && k.drv.referenced
     | .waiting => k.dem.movement.isSome
     | .running => decide (k.dem.movement.map Movement.kind = some .ordinary)
     | .reversing => k.dem.movement.isNone && k.drv.reversalTimer.isSome
     | .referencing =>
       decide (k.dem.movement.map Movement.kind = some .reference) && decide (k.drv.dir = some .closing)
     | .faulted => k.dem.movement.isNone)

/-- Every channel is well formed, and its count lies within 0 to the stroke. -/
def State.channelsWf (s : State) : Bool := s.countsWf && Quad.all.all (fun c => (s.chan c).wf)

/-- A target of a channel is a position of at most 1000, or a hold (R90). -/
def Target.wf : Target → Bool
  | .pos t => decide (t ≤ 1000)
  | .hold => true

/-- The sources of a channel are the ones that its causes give (R64, R84, R87, R90, R91, R97). -/
structure State.SourcesFollow (s : State) (c : Chan) : Prop where
  override : (s.chan c).src.override = effectiveOverride s.fire.overrides
  action : (s.chan c).fire.action = s.fireAction c
  fire : (s.chan c).src.fire = (s.chan c).fireDemand
  weather : (s.chan c).src.weather = s.wx.atrium.closes
  localKey : (s.chan c).src.localKey = s.localSource
  ventilate : (s.chan c).src.ventilate = s.ventilateSource c

/-- On every channel that is not ABSENT the sources follow their causes, the limit veto its conditions, and the winner is the
highest source that is not vetoed (R90, R92, R93, R94, R155). -/
def State.DemandsFollow (s : State) : Prop :=
  ∀ c, (s.chan c).state ≠ .absent →
    s.SourcesFollow c ∧ (s.chan c).lim.veto = s.limitVeto c ∧ (s.chan c).dem.win = s.winner c

/-- The station is in STARTING mode until the entry to a mode at the end of the listen period, and only until then (R159, R162). -/
def State.PhaseRule (s : State) : Prop := s.starting = true ↔ s.sup.phase ≠ .entry

/-! ## The starts -/

/-- Where the station makes its starts by claims and the supply veto does not stand, a waiting channel has a live claim; where it
does not, no isolated start is allowed or timed in the claims' place; and the mode follows the isolation condition (R17, R114,
R126, R127). While that condition stands no claim is live, and a CLAIM is in the queue only where it is in flight, so that none is sent
(R125, R127). -/
structure State.StartRule (s : State) : Prop where
  normal : s.sup.mode = .normal → s.line.isolation = false
  isolated : s.sup.mode = .isolated → s.line.isolation = true
  slots : s.claimsAllowed = true → s.bud.isoTimer = none ∧ s.bud.isoOpen = false
  claimed : s.claimsAllowed = true → s.supplyVeto = false → (∃ c, (s.chan c).state = .waiting) → s.bud.own.state ≠ .none
  unclaimed : s.line.isolation = true → s.bud.own.state = .none ∧
    ∀ e ∈ s.line.queue, e.notice.kind = .claim → ∃ f ∈ s.line.flight, f.content.kind = .claim
  starting : s.starting = true → s.StartingQuiet

/-! ## Fields, duty and the station's own notices -/

/-- The fields of a channel are within their ranges (R173). -/
def ChannelFields.inRange (f : ChannelFields) : Bool :=
  decide (f.facing ≤ 359) && decide ((f.stroke.getD 100) ≥ 100 ∧ (f.stroke.getD 100) ≤ 60000) &&
    decide (1 ≤ f.inrush ∧ f.inrush ≤ 600) && decide (1 ≤ f.run ∧ f.run ≤ 300) && decide (1 ≤ f.stall ∧ f.stall ≤ 300)

/-- The field values are within their ranges, and the clamps hold (R109, R173). CAL is within its own after a load of CLEAN or CORRECTED
alone: with LOST no clamp is applied, and it is the number of its word (R172, log entry 16). -/
def Fields.inRange (f : Fields) : Bool :=
  decide (1 ≤ f.zone ∧ f.zone ≤ 4) && decide (1 ≤ f.ventZones ∧ f.ventZones ≤ 15) &&
    f.ch.one.inRange && f.ch.two.inRange && f.ch.three.inRange && f.ch.four.inRange &&
    decide (f.maxInrush ≤ f.aStart ∧ f.aStart ≤ 2000) && decide (f.aStart ≤ f.aFire ∧ f.aFire ≤ 4000) &&
    decide (f.maxRun ≤ f.aRun ∧ f.aRun ≤ 4000) && decide (1 ≤ f.k ∧ f.k ≤ 10000) && decide (f.northOffset ≤ 359) &&
    decide (4 ≤ f.rainThreshold ∧ f.rainThreshold ≤ 1019) && decide (f.rainPeriod ∈ [250, 500, 1000, 2000]) &&
    decide (1 ≤ f.rainHold ∧ f.rainHold ≤ 60) && decide (f.cal ≤ 65535) && decide (10 ≤ f.sHeat ∧ f.sHeat ≤ 500) &&
    decide (400 ≤ f.th ∧ f.th ≤ 1200) && decide (20 ≤ f.rr ∧ f.rr ≤ 300) && decide (f.wvLo + 1 ≤ f.wvHi ∧ f.wvHi ≤ 600) &&
    decide (1 ≤ f.wStorm ∧ f.wStorm ≤ 600) && decide (1 ≤ f.wf ∧ f.wf ≤ 600) && decide (f.wHys ≤ f.wf) &&
    decide (60 ≤ f.dutyWindow ∧ f.dutyWindow ≤ 3600) && decide (5 ≤ f.duty ∧ f.duty ≤ 100) &&
    decide (1 ≤ f.throttleFactor ∧ f.throttleFactor ≤ 15)

/-- The run counter does not pass the threshold, and stands below it while the channel is not throttled (R149, R150). -/
def State.dutyWf (s : State) : Bool :=
  Quad.all.all (fun c =>
    decide ((s.chan c).lim.runCounter ≤ s.fields.threshold) &&
      ((s.chan c).lim.throttled || decide ((s.chan c).lim.runCounter < s.fields.threshold)))

/-- A record of a STATUS notice (R22). -/
def ChanRecord.wf (r : ChanRecord) : Bool := decide (r.state ≠ .absent) && decide (r.position ≤ 1000)

/-- A report (R22). -/
def Report.wf (r : Report) : Bool :=
  decide (r.mean.getD 0 ≤ 600) && decide (r.gust.getD 0 ≤ 600) && decide (r.direction.getD 0 ≤ 359)

/-- The values that the layout of R20 allows: what the content test of R22 passes. -/
def Notice.wf : Notice → Bool
  | .fire _ contact heat => contact || heat
  | .fireClear _ => true
  | .override _ => true
  | .claim set inrush _ => decide (set ≠ Four.all false) && decide (inrush ≤ 65535)
  | .status c => decide (c.current ≤ 65535) && decide (c.channels.length ≤ 4) && c.channels.all ChanRecord.wf
  | .weather r => r.wf
  | .ventilate zones t => decide (zones ≠ Four.all false) && decide (t ≤ 1000)
  | .health h =>
    decide (h.valid ≤ 65535) && decide (h.discard ≤ 255) && decide (h.dropped ≤ 255) && decide (h.lastCorrected ≤ 63) &&
      decide (h.codes.length ≤ 16) && ascendingFrom 0 h.codes && h.codes.all (fun n => decide (n ≤ 255))

/-- What the station's notices are made from, and the notices in its queue, have values that the layout allows (R22). -/
structure State.NoticesWf (s : State) : Prop where
  inv : s.Inv
  channels : s.channelsWf = true
  fields : s.fields.inRange = true
  report : s.wx.own.wf = true
  ring : s.wx.ring.all (fun n => decide (n ≤ 600)) = true
  sample : s.dem.sample ≤ 1000
  index : s.cfg.lastCorrected ≤ 63
  codes : s.sup.faults.all (fun n => decide (1 ≤ n) && decide (n ≤ 48)) = true
  queue : s.line.queue.all (fun e => e.notice.wf) = true
  flight : (s.line.flight.map (fun f => f.content.wf)).getD true = true

/-- A station that hears a notice of another bay from its first character, with no attempt of its own in flight. -/
def State.hears (s : State) (bay : Nat) (n : Notice) : Prop :=
  s.line.receiver = .idle ∧ s.line.flight = none ∧ 1 ≤ bay ∧ bay ≤ 32 ∧ bay ≠ s.bay ∧ n.wf = true

end Sys2Proof.Machine
end

