-- ==== Sys2Proof/Certificates/Slice0/Obligations.lean ====
section
/-! DEFINITION. The statements for the provers. -/

open Sys2Proof Sys2Proof.Machine

/-! ## The machine -/

/-- A step with a command at the front of the queue is the command's effect on the state with the queue's rest. -/
def Obligations.StepRunsFront : Prop :=
  ∀ (c : Instr) (rest : List Instr) (s : State),
    s.pending = c :: rest → step s = exec c { s with pending := rest }

/-- On an empty queue one millisecond passes (log entry 2): every running timer has 1 ms less to run and one at 0 stays there, every age is
1 ms more, up to the age that removes what has it, a dominant span in progress or else the recessive count grows by 1 ms, whatever the own terminal does (R4, R9),
and the run tick timer of a driven channel that is not throttled rises to at most 100 ms (R149). Nothing else changes: no mode, source, movement, count or fault; the
stall, overcurrent and open-load timers follow the current, and stand. -/
def Obligations.IdleMillisecond : Prop :=
  ∀ (down : Timer → Timer) (s : State), (∀ n, down (some n) = some (n - 1)) → down none = none → s.pending = [] →
    ∃ t, step s = .next t ∧
      t = { s with
        svc.rxTimer := down s.svc.rxTimer, svc.programTimer := down s.svc.programTimer
        sup.listenTimer := down s.sup.listenTimer, sup.lowEntry := down s.sup.lowEntry, sup.lowRecovery := down s.sup.lowRecovery
        sup.highEntry := down s.sup.highEntry, sup.highRecovery := down s.sup.highRecovery
        sup.lamp.timer := down s.sup.lamp.timer
        line.span := s.line.span.map (fun n => n + 96)
        line.recessive := if s.line.span = none then s.line.recessive + 96 else s.line.recessive
        line.breakTimer := s.line.breakTimer.map (fun n => n - 96)
        line.pulseEndTimer := down s.line.pulseEndTimer
        sched.fireResend := down s.sched.fireResend, sched.overrideRepeat := down s.sched.overrideRepeat
        sched.statusPeriod := down s.sched.statusPeriod, sched.statusSpacing := down s.sched.statusSpacing
        sched.weatherPeriod := down s.sched.weatherPeriod, sched.ventilatePeriod := down s.sched.ventilatePeriod
        sched.healthPeriod := down s.sched.healthPeriod
        peer.entries := s.peer.entries.map (fun e => { e with
          age := min 60000 (e.age + 1), weather := e.weather.map (fun h => { h with age := h.age + 1 }) })
        peer.conflictTimer := down s.peer.conflictTimer
        wx.gateTimer := down s.wx.gateTimer, wx.rainTimer := down s.wx.rainTimer, wx.heatTimer := down s.wx.heatTimer
        wx.atrium.stormTimer := down s.wx.atrium.stormTimer
        fire.candidateTimer := down s.fire.candidateTimer, fire.contactTimer := down s.fire.contactTimer
        fire.generalTimer := down s.fire.generalTimer, fire.pulseTimer := down s.fire.pulseTimer, fire.keyTimer := down s.fire.keyTimer
        fire.overrides := s.fire.overrides.map (fun o => { o with age := o.age.map (fun n => min 15000 (n + 1)) })
        dem.keyTimer := down s.dem.keyTimer
        dem.ventMap := s.dem.ventMap.map (fun o => { o with age := min 180000 (o.age + 1) })
        bud.items := s.bud.items.map (fun i => { i with age := min 2000 (i.age + 1) })
        bud.settleTimer := down s.bud.settleTimer, bud.isoTimer := down s.bud.isoTimer
        bud.lastIso := s.bud.lastIso.map (fun n => n + 1)
        lim.holdTimer := down s.lim.holdTimer
        ch := t.ch } ∧
      ∀ c, t.chan c = { s.chan c with
        dem.refTimer := down (s.chan c).dem.refTimer
        drv.coast := down (s.chan c).drv.coast, drv.inrushMask := down (s.chan c).drv.inrushMask
        drv.noPulseTimer := down (s.chan c).drv.noPulseTimer, drv.reportTimer := down (s.chan c).drv.reportTimer
        drv.retryTimer := down (s.chan c).drv.retryTimer, drv.reversalTimer := down (s.chan c).drv.reversalTimer
        drv.jog := (s.chan c).drv.jog.map (fun j => { j with timer := down j.timer })
        lim.window := down (s.chan c).lim.window, lim.throttleTimer := down (s.chan c).lim.throttleTimer
        lim.tickAcc := if (s.chan c).driven = true ∧ (s.chan c).lim.throttled = false then min 100 ((s.chan c).lim.tickAcc + 1)
          else (s.chan c).lim.tickAcc }

/-- What every state of a run holds, holds at reset. -/
def Obligations.ResetHolds : Prop :=
  State.reset.NoticesWf ∧ State.reset.StartRule ∧ State.reset.PhaseRule ∧ State.reset.DemandsFollow ∧ State.reset.dutyWf = true

/-- Every step keeps the bounds and the order of the fault set, the counters, the start list, the origin sets, the two maps, the
peer map, the store and the outgoing queue, which so holds at most 8 notices (R15). -/
def Obligations.InvKept : Prop := ∀ s t : State, s.Inv → step s = .next t → t.Inv ∧ t.line.queue.length ≤ 8

/-- Every step keeps what a channel holds in each of its states, and every count within 0 to the stroke; so every position lies
within 0 to 1000 (R129, R131). -/
def Obligations.ChannelsKept : Prop :=
  ∀ s t : State, s.channelsWf = true → step s = .next t → t.channelsWf = true ∧ ∀ c, t.position c ≤ 1000

/-- Every step keeps the sources of a channel with their causes, its limit veto with its conditions, and its winner with its
sources; and it keeps the station in STARTING until the entry to a mode and only until then (R159, R162), which the causes of LOCAL and
VENTILATE depend on (R90). -/
def Obligations.DemandsKept : Prop :=
  ∀ s t : State, s.PhaseRule → s.DemandsFollow → step s = .next t → t.PhaseRule ∧ t.DemandsFollow

/-- Every step keeps the rule of the starts, in STARTING that nothing is sent or started, and while the isolation condition stands that no
claim is live and no CLAIM waits in the queue (R127). That a CLAIM whose attempt fails then leaves the queue is log entry 50, the model's
choice. -/
def Obligations.StartRuleKept : Prop := ∀ s t : State, s.StartRule → step s = .next t → t.StartRule

/-- Every step keeps the run counters at or below the threshold. -/
def Obligations.DutyKept : Prop :=
  ∀ s t : State, s.fields.inRange = true → s.dutyWf = true → step s = .next t →
    t.fields.inRange = true ∧ t.dutyWf = true

/-- Every step keeps the station's own notices such that they pass the content test (R22). -/
def Obligations.OwnNoticesPass : Prop := ∀ s t : State, s.NoticesWf → step s = .next t → t.NoticesWf

/-- A notice's characters pass every test of R4 one after another, make a whole notice with its last character and not before, and
carry the bay and the content. -/
def Obligations.NoticeRoundTrip : Prop :=
  ∀ (bay : Nat) (n : Notice), 1 ≤ bay → bay ≤ 32 → n.wf = true →
    (∀ k, 1 ≤ k → k ≤ (n.frame bay).length → charsAccepted ((n.frame bay).take k) = true) ∧
    (∀ k, k < (n.frame bay).length → noticeComplete ((n.frame bay).take k) = false) ∧
    noticeComplete (n.frame bay) = true ∧ checkAgrees (n.frame bay) = true ∧
    noticeBay (n.frame bay) = bay ∧ noticeContent (n.frame bay) = some n

/-- The mode changes only as R163 lists, and at the end of the listen period as R162 lists. -/
def Obligations.ModeChanges : Prop :=
  ∀ (c : Instr) (s t : State), exec c s = .next t →
    t.sup.mode = s.sup.mode ∨
    (s.sup.mode = .normal ∧ t.sup.mode = .isolated ∧ s.line.isolation = false ∧ t.line.isolation = true) ∨
    (s.sup.mode = .isolated ∧ t.sup.mode = .normal ∧ s.line.isolation = true ∧ t.line.isolation = false) ∨
    (t.sup.mode = .starting ∧ ∃ straps svc dominant, c = .fullReset straps svc dominant) ∨
    (c = .listenEnd ∧ s.sup.phase = .listen ∧ t.sup.phase = .entry ∧ t.line.isolation = s.line.isolation ∧
      t.sup.mode = if s.sup.svcStrap then .service else if s.line.isolation then .isolated else .normal)

/-- The straps, the loaded image with its fields, and the factory row are fixed between full resets, the store is written by
PROGRAM_WORD_WRITTEN, and torn by a SUPPLY_LOW or a full reset that cuts programming short, and an ABSENT channel, which has no source, no
movement, no count and no timers, stays so until a full reset (R129, R159, R170, R177). -/
def Obligations.FixedBetweenResets : Prop :=
  ∀ (c : Instr) (s t : State), exec c s = .next t →
    t.pending = s.pending ∧ t.cfg.factory = s.cfg.factory ∧
    ((∀ straps svc dominant, c ≠ .fullReset straps svc dominant) →
      t.sup.bay = s.sup.bay ∧ t.sup.svcStrap = s.sup.svcStrap ∧ t.cfg.image = s.cfg.image ∧
      t.cfg.fields = s.cfg.fields ∧ t.cfg.outcome = s.cfg.outcome ∧ t.cfg.lastCorrected = s.cfg.lastCorrected ∧
      (c ≠ .programWordWritten → c ≠ .supplyLowSet → t.cfg.store = s.cfg.store) ∧
      ∀ k, s.chan k = Channel.absent → t.chan k = Channel.absent) ∧
    (s.svc.programming = none → t.cfg.store = s.cfg.store)

/-! ## Start-up -/

/-- After a full reset the blocks have the values that their chapters state, and the model's where those state none, with the straps and the
line as read; the fault set holds WEATHER_UNKNOWN and codes of the load alone, and no reply goes out (R18, R34, R48, R70, R89, R108,
R128, R147, R157, R169, R178). The model's choices: that the load and the straps are part of the full reset is log entry 9, that the demand
sample is then 0, to which R108 gives no value, is log entry 26, that the commands that wait are kept is log entry 23, and that the direction last driven is
none, to which R147 gives no value, is log entry 62. -/
def Obligations.FullResetValues : Prop :=
  ∀ (straps : BitVec 5) (svc dominant : Bool) (s : State),
    completes (.fullReset straps svc dominant) s (fun t =>
      t.pending = s.pending ∧
      t.line =
        { drive := .released, receiver := .recovering, span := if dominant then some 0 else none, spanLong := false,
          recessive := 0, breakArmed := false, breakAtEnd := false, queue := [], flight := none, echoRun := 0, isolation := false, valid := 0, discard := 0,
          dropped := 0, breakTimer := none, pulseRequested := false, pulseEndTimer := none } ∧
      t.sched =
        { fireResend := none, overrideRepeat := none, statusPeriod := none, statusSpacing := none, lastStatus := none,
          weatherPeriod := none, ventilatePeriod := none, lastVentilate := none, healthPeriod := none } ∧
      t.peer = { entries := [], conflictTimer := none } ∧
      t.wx =
        { gateTimer := none, gateCount := 0, ring := [], rainTimer := none, rainFlag := false, wetRun := 0, dryRun := 0,
          heatTimer := none, heatRing := [], fixedRun := 0, rateRun := 0, clearRun := 0, heatAlarm := false,
          own := ⟨none, none, none, none⟩,
          atrium := { w := 0, d := none, g := 0, rain := false, unknown := true, storm := true, stormTimer := none } } ∧
      t.fire =
        { sampleClass := none, candidate := none, candidateTimer := none, loopClass := none, contact := false,
          contactTimer := none, heat := false, origins := ⟨[], [], [], []⟩, generalTimer := none, pulseTimer := none,
          keyTaken := .auto, keyCandidate := none, keyTimer := none, overrides := [] } ∧
      t.dem = { keyTaken := .auto, keyCandidate := none, keyTimer := none, ventMap := [], sample := 0 } ∧
      t.bud =
        { items := [], own := ⟨.none, ⟨false, false, false, false⟩, false, 0⟩, settleTimer := none, isoTimer := none,
          isoOpen := false, lastIso := none } ∧
      t.lim = { hold := false, holdTimer := none } ∧
      t.svc = { staging := [], rx := [], rxTimer := none, programming := none, programTimer := none, replies := [] } ∧
      (∀ c, t.chan c =
        { state := .unreferenced
          src := { override := none, fire := none, weather := true, localKey := none, ventilate := none }
          dem := { win := some (.weather, .pos 0), movement := none, pending := none, refDue := false, moveCount := 0,
                   refTimer := none, standing := none }
          drv := { dir := none, lastDir := none, count := 0, referenced := false, restEnd := none, coast := none,
                   inrushMask := none, stallTimer := none, overcurrentTimer := none, openLoadTimer := none,
                   noPulseTimer := none, reportTimer := none, current := none, retryCount := 0, retryTimer := none,
                   retryHeld := false, reversalTimer := none, jog := none }
          lim := { window := none, tickAcc := 0, runCounter := 0, throttled := false, throttleTimer := none, veto := false }
          fire := { action := .none, capture := none }
          wind := { wn := 0, limit := 0, block := false } }) ∧
      t.sup =
        { mode := .starting, phase := .presence, listenTimer := none, bay := straps.toNat + 1, svcStrap := svc,
          presence := ⟨⟨none, none, none, none⟩, none, none, none, none⟩, low := false, lowEntry := none,
          lowRecovery := none, high := false, highEntry := none, highRecovery := none, faults := t.sup.faults,
          relay := false, lamp := { pattern := .off, part := 0, on := false, timer := none } } ∧
      10 ∈ t.sup.faults ∧ ∀ n ∈ t.sup.faults, n = 10 ∨ n = 11 ∨ n = 12 ∨ n = 13)

/-- A load of words with at most one wrong bit each and a signature that matches (R171): the image is what was written, the outcome and
the last corrected index say whether and where a word was corrected, CONFIG_CORRECTED and CONFIG_CLAMPED stand as the load finds, and
the fields are the fields of the image with the CAL of the factory row, clamped; two wrong bits in the factory row make CAL 512, with
CONFIG_CLAMPED. That CAL is clamped with them is log entry 16. -/
def Obligations.LoadCorrects : Prop :=
  ∀ (straps : BitVec 5) (svc dominant : Bool) (cal : Nat) (s : State),
    storeWf s.cfg.store = true → s.svc.programming = none →
    (∀ i, i < 64 → wrongBits (readStore s.cfg.store i).wrong ≤ 1) → wrongBits s.cfg.factory.wrong ≤ 2 →
    cal = (if wrongBits s.cfg.factory.wrong = 2 then 512 else s.cfg.factory.written.toNat) →
    signature (s.cfg.store.map (·.written)) = (readStore s.cfg.store 63).written →
    completes (.fullReset straps svc dominant) s (fun t =>
      t.cfg.store = s.cfg.store ∧ t.cfg.factory = s.cfg.factory ∧
      t.cfg.image = s.cfg.store.map (·.written) ∧
      ((∃ i, i < 64 ∧ wrongBits (readStore s.cfg.store i).wrong = 1) →
        t.cfg.outcome = .corrected ∧ t.cfg.lastCorrected < 64 ∧
        wrongBits (readStore s.cfg.store t.cfg.lastCorrected).wrong = 1 ∧
        ∀ i, i < 64 → wrongBits (readStore s.cfg.store i).wrong = 1 → i ≤ t.cfg.lastCorrected) ∧
      ((∀ i, i < 64 → wrongBits (readStore s.cfg.store i).wrong = 0) →
        t.cfg.outcome = .clean ∧ t.cfg.lastCorrected = 0) ∧
      (11 ∈ t.sup.faults ↔
        (∃ i, i < 64 ∧ wrongBits (readStore s.cfg.store i).wrong = 1) ∨ wrongBits s.cfg.factory.wrong = 1) ∧
      12 ∉ t.sup.faults ∧
      t.cfg.fields = (decodedFields t.cfg.image cal).clamped ∧
      (13 ∈ t.sup.faults ↔ wrongBits s.cfg.factory.wrong = 2 ∨ t.cfg.fields ≠ decodedFields t.cfg.image cal))

/-- A word with two wrong bits, a signature that differs, or a programming that the reset cuts short: the outcome is LOST with
CONFIG_LOST, and every field takes its built-in default, so that the station is no sensor station; two wrong bits in the factory row make
CAL 512 (R171, R172, R177).
That a CAL above 1023 stands, since no clamp is applied with LOST, is log entry 16; that the word cut short holds free data is log
entry 5. -/
def Obligations.BuiltInDefaults : Prop :=
  ∀ (straps : BitVec 5) (svc dominant : Bool) (s : State), storeWf s.cfg.store = true →
    ((∃ i, i < 64 ∧ wrongBits (readStore s.cfg.store i).wrong = 2) ∨
      (∃ i, i < 64 ∧ s.svc.programming = some i) ∨
      (s.svc.programming = none ∧ (∀ i, i < 64 → wrongBits (readStore s.cfg.store i).wrong ≤ 1) ∧
        signature (s.cfg.store.map (·.written)) ≠ (readStore s.cfg.store 63).written)) →
    completes (.fullReset straps svc dominant) s (fun t =>
      t.cfg.outcome = .lost ∧ 12 ∈ t.sup.faults ∧ t.configSignature = 0#16 ∧
      (wrongBits s.cfg.factory.wrong = 2 → t.cfg.fields.cal = 512 ∧ 13 ∈ t.sup.faults) ∧
      (wrongBits s.cfg.factory.wrong ≤ 1 → t.cfg.fields.cal = s.cfg.factory.written.toNat ∧ 13 ∉ t.sup.faults) ∧
      t.sensorStation = false ∧
      t.cfg.fields =
        { zone := 1, ventZones := 1,
          ch := Four.all { fitted := false, facing := 0, stroke := none, inrush := 40, run := 15, stall := 30 },
          anemoFitted := false, vaneFitted := false, rainFitted := false, heatFitted := false, demandFitted := false,
          response := Four.all (Four.all .open), responseGeneral := Four.all .open,
          aStart := 80, aFire := 160, aRun := 200, k := 250, northOffset := 0, rainThreshold := 512, rainPeriod := 1000,
          rainHold := 10, cal := t.cfg.fields.cal, sHeat := 52, th := 680, rr := 80, wvLo := 60, wvHi := 120, wStorm := 150,
          wf := 50, wHys := 10, dutyWindow := 600, duty := 30, throttleFactor := 2 })

/-- The fields of an image and their clamps (R109, R170, R173, the ranges in the tables of chapters 4, 7, 8 and 9): each field is read from its word and bits; every field ends within its range;
a field within its range that no cross clamp touches is as decoded; Wv_hi is raised to Wv_lo + 1, W_hys lowered to Wf, A_start raised to the largest inrush rating, A_run to the largest run
rating, and A_fire to A_start; so every channel fits within A_start, A_fire and A_run. That CAL is clamped with the fields, to at most 1023, is log
entry 16. -/
def Obligations.Clamps : Prop :=
  ∀ (image : List Word) (cal : Nat),
    let w : Nat → Nat := fun i => (image.getD i 0#16).toNat
    let action : Nat → Nat → FireAction := fun column i => [FireAction.none, .open, .close, .freeze].getD (column / 4 ^ (i - 1) % 4) .none
    let d := decodedFields image cal
    let f := d.clamped
    d = { zone := w 0 % 8, ventZones := w 0 / 8 % 16, ch := d.ch
          anemoFitted := decide (w 0 / 2048 % 2 = 1), vaneFitted := decide (w 0 / 4096 % 2 = 1)
          rainFitted := decide (w 0 / 8192 % 2 = 1), heatFitted := decide (w 0 / 16384 % 2 = 1)
          demandFitted := decide (w 0 / 32768 = 1), response := d.response, responseGeneral := d.responseGeneral
          aStart := w 24, aFire := w 25, aRun := w 26, k := w 27, northOffset := w 28, rainThreshold := w 29
          rainPeriod := [250, 500, 1000, 2000].getD (w 30 % 4) 0, rainHold := w 30 / 4, cal := cal, sHeat := w 31, th := w 32
          rr := w 33, wvLo := w 34, wvHi := w 35, wStorm := w 36, wf := w 37, wHys := w 38, dutyWindow := w 39
          duty := w 40 % 256, throttleFactor := w 40 / 256 % 16 } ∧
    (∀ c : Chan,
      d.ch.get c = { fitted := decide (w 0 / 2 ^ (6 + c.number) % 2 = 1), facing := w c.number, stroke := some (w (4 + c.number))
                     inrush := w (8 + c.number), run := w (12 + c.number), stall := w (16 + c.number) } ∧
      d.response.one.get c = action (w 21 % 256) c.number ∧ d.response.two.get c = action (w 21 / 256) c.number ∧
      d.response.three.get c = action (w 22 % 256) c.number ∧ d.response.four.get c = action (w 22 / 256) c.number ∧
      d.responseGeneral.get c = action (w 23 % 256) c.number) ∧
    f.inRange = true ∧
    f.zone = max 1 (min 4 d.zone) ∧ f.ventZones = max 1 (min 15 d.ventZones) ∧
    (∀ c, (f.ch.get c).fitted = (d.ch.get c).fitted ∧ (f.ch.get c).facing = min 359 (d.ch.get c).facing ∧
      (f.ch.get c).stroke = (d.ch.get c).stroke.map (fun n => max 100 (min 60000 n)) ∧
      (f.ch.get c).inrush = max 1 (min 600 (d.ch.get c).inrush) ∧ (f.ch.get c).run = max 1 (min 300 (d.ch.get c).run) ∧
      (f.ch.get c).stall = max 1 (min 300 (d.ch.get c).stall) ∧
      (f.ch.get c).inrush ≤ f.aStart ∧ (f.ch.get c).inrush ≤ f.aFire ∧ (f.ch.get c).run ≤ f.aRun) ∧
    (f.aStart = max 1 (min 2000 d.aStart) ∨
      ∃ c, f.aStart = (f.ch.get c).inrush ∧ max 1 (min 2000 d.aStart) < f.aStart) ∧
    (f.aRun = max 1 (min 4000 d.aRun) ∨ ∃ c, f.aRun = (f.ch.get c).run ∧ max 1 (min 4000 d.aRun) < f.aRun) ∧
    f.aFire = max (max 1 (min 4000 d.aFire)) f.aStart ∧
    f.wvLo = min 599 d.wvLo ∧ f.wvHi = max (max 1 (min 600 d.wvHi)) (f.wvLo + 1) ∧
    f.wf = max 1 (min 600 d.wf) ∧ f.wHys = min (min 600 d.wHys) f.wf ∧ f.wStorm = max 1 (min 600 d.wStorm) ∧
    f.k = max 1 (min 10000 d.k) ∧ f.northOffset = min 359 d.northOffset ∧
    f.rainThreshold = max 4 (min 1019 d.rainThreshold) ∧ f.rainHold = max 1 (min 60 d.rainHold) ∧
    f.sHeat = max 10 (min 500 d.sHeat) ∧ f.th = max 400 (min 1200 d.th) ∧ f.rr = max 20 (min 300 d.rr) ∧
    f.dutyWindow = max 60 (min 3600 d.dutyWindow) ∧ f.duty = max 5 (min 100 d.duty) ∧
    f.throttleFactor = max 1 (min 15 d.throttleFactor) ∧
    f.response = d.response ∧ f.responseGeneral = d.responseGeneral ∧ f.rainPeriod = d.rainPeriod ∧ f.cal = min 1023 d.cal

/-- Presence detection (R49, R108, R160, R161, R162): a channel's result latches, and one found empty is ABSENT, with ABSENT_MISMATCH where the
configuration, not LOST, marks it fitted. At its end the fitted sensors latch as their readings confirm them, the code of one that
fails stands, the scans of the confirmed ones begin, the listen timer runs for 3000 ms, the duty windows begin, and each present channel
takes its first demand; a driver flag already set begins a hold (R153), under which the first movement is an ordinary closing (R156).
Nothing is queued, claimed or started.
That the first demand is taken at the end and not before is log entry 10. -/
def Obligations.Presence : Prop :=
  (∀ (c : Chan) (load : Bool) (s : State), s.sup.phase = .presence → s.sup.presence.ch.get c = none →
    completes (.presenceChannelTest c load) s (fun t =>
      t = if load then { s with sup.presence.ch := s.sup.presence.ch.set c (some true) }
        else { s with
          sup.presence.ch := s.sup.presence.ch.set c (some false)
          sup.faults := if (s.chFields c).fitted = true ∧ s.cfg.outcome ≠ .lost
            then insertCode (16 + 8 * (c.number - 1) + 4) s.sup.faults else s.sup.faults
          ch := s.ch.set c Channel.absent })) ∧
  (∀ (bias : Bool) (vane rain heat : Raw) (flag : Bool) (s : State),
    s.sup.phase = .presence → s.sup.mode = .starting → s.bud.own.state = .none → s.bud.isoOpen = false →
    completes (.presenceEnd bias vane rain heat flag) s (fun t =>
      t.sup.phase = .listen ∧ t.sup.listenTimer = some 3000 ∧ t.sup.mode = .starting ∧
      t.sup.presence =
        { ch := s.sup.presence.ch
          anemo := if s.fields.anemoFitted then some bias else none
          vane := if s.fields.vaneFitted then some (decide (3 ≤ vane.toNat ∧ vane.toNat ≤ 1020)) else none
          rain := if s.fields.rainFitted then some (decide (4 ≤ rain.toNat ∧ rain.toNat ≤ 1019)) else none
          heat := if s.fields.heatFitted then some (decide (4 ≤ heat.toNat ∧ heat.toNat ≤ 1019)) else none } ∧
      (48 ∈ t.sup.faults ↔ 48 ∈ s.sup.faults ∨ t.sup.presence.vane = some false) ∧
      (9 ∈ t.sup.faults ↔ 9 ∈ s.sup.faults ∨ t.sup.presence.rain = some false) ∧
      (8 ∈ t.sup.faults ↔ 8 ∈ s.sup.faults ∨ t.sup.presence.heat = some false) ∧
      (14 ∈ t.sup.faults ↔ 14 ∈ s.sup.faults ∨ flag = true) ∧
      t.wx =
        { s.wx with
          gateTimer := if t.sup.presence.anemo = some true ∨ t.sup.presence.vane = some true then some 1000 else none
          gateCount := 0
          rainTimer := if t.sup.presence.rain = some true then some s.fields.rainPeriod else none
          heatTimer := if t.sup.presence.heat = some true then some 1000 else none } ∧
      t.lim = (if flag then { hold := true, holdTimer := some 60000 } else s.lim) ∧
      t.line = s.line ∧ t.bud = s.bud ∧ t.sched = s.sched ∧ t.fire = s.fire ∧ t.dem = s.dem ∧ t.peer = s.peer ∧ t.cfg = s.cfg ∧
      (∀ c, (s.chan c).state = .absent → t.chan c = s.chan c) ∧
      (∀ c, (s.chan c).state ≠ .absent →
        (t.chan c).lim.window = some (1000 * s.fields.dutyWindow) ∧ (t.chan c).lim.runCounter = 0) ∧
      (∀ c, s.chan c = Channel.afterReset → s.supplyVeto = false → s.lim.hold = false →
        t.chan c =
          { Channel.afterReset with
            state := .waiting
            dem := { ChDemand.afterReset with
              movement := some ⟨if flag then .ordinary else .reference, 0, some .weather⟩ }
            lim := { ChLimit.afterReset with window := some (1000 * s.fields.dutyWindow), veto := flag } })))

/-- The end of the listen period (R34, R126, R162, R178): the mode by the service strap and the isolation condition; STATUS and HEALTH
are queued, WEATHER by a sensor station, VENTILATE where the demand input is fitted, FIRE where a local fire stands; in SERVICE mode the
staging image is the loaded image, and LOCAL and VENTILATE are absent; isolated, the start timer runs and a pulse is requested for a
local fire, outside LINE_STUCK (R14, R79), and otherwise a claim is formed for the channels that wait. No motor starts. -/
def Obligations.ListenEnd : Prop :=
  ∀ (s : State), s.sup.phase = .listen → s.sup.listenTimer.isSome = true → s.starting = true → s.StartingQuiet →
    completes .listenEnd s (fun t =>
      t.sup.phase = .entry ∧ t.sup.listenTimer = none ∧
      t.sup.mode = (if s.sup.svcStrap then .service else if s.line.isolation then .isolated else .normal) ∧
      (∀ last ∈ t.sched.lastStatus, (∃ e ∈ t.line.queue, e.notice = .status last) ∧ last.mode = t.sup.mode.run ∧
        last.zone = s.zone ∧ last.general = s.fire.generalTimer.isSome ∧ last.current = 0 ∧
        (s.localFire = false → s.fields.demandFitted = false → last = t.statusContent)) ∧
      t.sched.lastStatus.isSome = true ∧
      t.sched.statusPeriod = some 5000 ∧ t.sched.statusSpacing = some 200 ∧
      (∃ e ∈ t.line.queue, e.notice = .health t.healthContent) ∧ t.sched.healthPeriod = some 60000 ∧
      (s.sensorStation = true → (∃ e ∈ t.line.queue, e.notice = .weather s.wx.own) ∧ t.sched.weatherPeriod = some 2000) ∧
      (s.fields.demandFitted = true →
        (∃ e ∈ t.line.queue, e.notice = .ventilate (ofBits4 s.fields.ventZones) s.dem.sample) ∧
        t.sched.ventilatePeriod = some 60000 ∧ t.sched.lastVentilate = some s.dem.sample) ∧
      (s.localFire = true →
        (∃ e ∈ t.line.queue, e.notice = .fire s.zone s.fire.contact s.fire.heat) ∧ t.sched.fireResend = some 10000) ∧
      (s.sup.svcStrap = true → t.svc.staging = s.cfg.image ∧
        ∀ c, (t.chan c).state ≠ .absent → (t.chan c).src.ventilate = none ∧ (t.chan c).src.localKey = none) ∧
      (s.line.isolation = true → t.bud.isoTimer = some (200 * s.bay) ∧ t.bud.own.state = .none) ∧
      (s.line.isolation = false → s.supplyVeto = false → (∃ c, (t.chan c).state = .waiting) →
        t.bud.own.state = .queued ∧
        ∃ e ∈ t.line.queue, e.notice = .claim t.bud.own.channels t.bud.own.inrush t.bud.own.fire) ∧
      (s.line.isolation = true → s.localFire = true → s.fire.pulseTimer = none →
        t.fire.pulseTimer = some 5000 ∧ (1 ∉ s.sup.faults → t.line.pulseRequested = true)) ∧
      (∀ c, (t.chan c).driven = false))

/-! ## The roof line: receiving -/

/-- The samples, edges and characters of the line (R2 to R4, R6, R13): a character is ten bits, of which the receiver takes the byte and the
stop bit; a recessive sample at the start is a glitch; a confirmed start bit begins a notice in IDLE and a further character
within one; a dominant edge starts the span timer and the recessive count; 12 bit times of recessive end RECOVERING; a gap of more than 20
bit times discards the notice, and so do a stop bit read dominant, a head outside the table of R19, a bay of 0 or above 32 and a length not
allowed; in an own notice a character other than the one sent releases the terminal; another character that does not complete the notice is
kept, a break armed before may begin at its end, and with more than 10 characters of a ROUTINE notice still to come an unmarked ALARM notice at the
head of the queue arms a break.
That an edge found to be a glitch restarts the idle count is log entry 59, what ends a short span 53, the echo of an own notice 12, the end at which an armed break begins 54, that a break armed in STARTING
stays armed 56, and the levels of a character 55. -/
def Obligations.CharactersTaken : Prop :=
  (∀ (s : State), s.line.receiver = .idle →
    completes (.startBitSample true) s (fun t => t = { s with line.receiver := .receiving [] true, line.recessive := 0 })) ∧
  (∀ (chars : List Byte) (b : Bool) (s : State), s.line.receiver = .receiving chars b →
    completes (.startBitSample true) s (fun t => t = { s with line.receiver := .receiving chars true })) ∧
  (∀ (s : State), s.line.receiver ≠ .recovering →
    completes (.startBitSample false) s (fun t => t = { s with line.span := none, line.spanLong := false })) ∧
  (∀ (dominant : Bool) (s : State), s.line.receiver = .recovering → completes (.startBitSample dominant) s (fun t => t = s)) ∧
  (∀ (b : Byte), lineChar b = [true, !b.getLsbD 0, !b.getLsbD 1, !b.getLsbD 2, !b.getLsbD 3, !b.getLsbD 4, !b.getLsbD 5,
    !b.getLsbD 6, !b.getLsbD 7, false] ∧ sampledChar (lineChar b) = some (b, true) ∧
    sampledChar ((lineChar b).take 9 ++ [true]) = some (b, false) ∧ sampledChar (false :: (lineChar b).drop 1) = none) ∧
  (∀ (s : State), s.longSpan = false →
    completes .dominantEdge s (fun t => t = { s with line.span := some 0, line.recessive := 0 })) ∧
  (∀ (s : State), s.line.receiver = .recovering → s.longSpan = false →
    completes .recoveryComplete s (fun t =>
      t = { s with
        line.receiver := .idle, line.recessive := 0, line.breakArmed := false, line.span := none, line.spanLong := false, line.breakAtEnd := false })) ∧
  (∀ (chars : List Byte) (s : State), s.line.receiver = .receiving chars false → s.line.flight = none →
    completes .gap s (fun t => t.Follows { s with
      line.discard := min 255 (s.line.discard + 1), line.receiver := .recovering, line.recessive := 0
      line.span := none, line.spanLong := false, line.breakAtEnd := false })) ∧
  (∀ (char : Byte) (stop b : Bool) (chars : List Byte) (s : State),
    s.line.receiver = .receiving chars b → s.line.flight = none →
    (stop = false ∨ (chars = [] ∧ char.toNat ∉ [32, 36, 40, 66, 83, 87, 91, 95]) ∨
      (chars.length = 1 ∧ (char.toNat = 0 ∨ 32 < char.toNat)) ∨
      (chars.length = 2 ∧ ((chars.head?.bind kindOfHead).map (fun k => k.lengthAllowed char.toNat)) ≠ some true)) →
    completes (.characterEnd char stop) s (fun t => t.Follows { s with
      line.discard := min 255 (s.line.discard + 1), line.receiver := .recovering, line.recessive := 0, line.breakAtEnd := false
      line.span := if stop = true then none else s.line.span
      line.spanLong := if stop = true then false else s.line.spanLong })) ∧
  (∀ (char : Byte) (stop b : Bool) (chars : List Byte) (f : Flight) (s : State),
    s.line.receiver = .receiving chars b → s.line.flight = some f → stop = false ∨ noticeComplete (chars ++ [char]) = false →
    completes (.characterEnd char stop) s (fun t => t.Follows { s with
      line.receiver := .receiving (if stop = true ∧ charsAccepted (chars ++ [char]) = true then chars ++ [char] else chars) false
      line.breakAtEnd := if stop = true ∧ charsAccepted (chars ++ [char]) = true then s.line.breakArmed else s.line.breakAtEnd
      line.span := if stop = true then none else s.line.span
      line.spanLong := if stop = true then false else s.line.spanLong
      line.drive := if s.line.drive = .notice ∧ (stop = false ∨ f.frame[chars.length]? ≠ some char) then .released
        else s.line.drive })) ∧
  (∀ (char : Byte) (b : Bool) (chars : List Byte) (s : State),
    s.line.receiver = .receiving chars b → s.line.flight = none →
    (chars = [] → char.toNat ∈ [32, 36, 40, 66, 83, 87, 91, 95]) →
    (chars.length = 1 → 1 ≤ char.toNat ∧ char.toNat ≤ 32) →
    (chars.length = 2 → ((chars.head?.bind kindOfHead).map (fun k => k.lengthAllowed char.toNat)) = some true) →
    ((chars ++ [char])[2]?.map (fun n => n.toNat + 5)) ≠ some (chars.length + 1) →
    completes (.characterEnd char true) s (fun t =>
      t.Follows { s with
        line.receiver := .receiving (chars ++ [char]) false, line.span := none, line.spanLong := false
        line.breakAtEnd := s.line.breakArmed } ∧
      ((s.line.queue.head?.map (fun e => decide (e.notice.noticeClass = .alarm) && !e.mark)) = some true →
        (chars ++ [char])[0]?.map (fun h => h.toNat % 4) = some 3 →
        ((chars ++ [char])[2]?.map (fun n => decide (chars.length + 11 < n.toNat + 5))) = some true →
        t.line.breakArmed = true)))

/-- The last character of a notice (R4, R5, R22, R44): the own echo is not taken as received; a check that differs discards the notice; a
notice under the own bay sets BAY_CONFLICT, with its timer at 60 s, and is not counted; one of another bay whose content fails the test is
counted and refreshes the sender's entry alone.
In an own notice a last character other than the one sent releases the terminal; what its characters show is otherwise left to the commands of its
echo (log entry 12). -/
def Obligations.NoticeEnds : Prop :=
  (∀ (char : Byte) (b : Bool) (chars : List Byte) (s : State),
    s.line.receiver = .receiving chars b → noticeComplete (chars ++ [char]) = true → s.line.flight.isSome = true →
    completes (.characterEnd char true) s (fun t => t.Follows { s with
      line.receiver := .idle, line.recessive := 0, line.span := none, line.spanLong := false, line.breakAtEnd := false
      line.drive := if s.line.drive = .notice ∧ s.line.flight.bind (fun f => f.frame[chars.length]?) ≠ some char then .released
        else s.line.drive })) ∧
  (∀ (char : Byte) (b : Bool) (chars : List Byte) (s : State),
    s.line.receiver = .receiving chars b → noticeComplete (chars ++ [char]) = true → s.line.flight = none →
    checkAgrees (chars ++ [char]) = false →
    completes (.characterEnd char true) s (fun t => t.Follows { s with
      line.discard := min 255 (s.line.discard + 1), line.receiver := .recovering, line.recessive := 0
      line.span := none, line.spanLong := false, line.breakAtEnd := false })) ∧
  (∀ (char : Byte) (b : Bool) (chars : List Byte) (s : State),
    s.line.receiver = .receiving chars b → noticeComplete (chars ++ [char]) = true → s.line.flight = none →
    checkAgrees (chars ++ [char]) = true → noticeBay chars = s.bay →
    completes (.characterEnd char true) s (fun t => t.Follows { s with
      line.receiver := .idle, line.recessive := 0, line.span := none, line.spanLong := false, line.breakAtEnd := false
      peer.conflictTimer := some 60000, sup.faults := insertCode 2 s.sup.faults })) ∧
  (∀ (char : Byte) (b : Bool) (chars : List Byte) (s : State),
    s.line.receiver = .receiving chars b → noticeComplete (chars ++ [char]) = true → s.line.flight = none →
    checkAgrees (chars ++ [char]) = true → noticeBay chars ≠ s.bay → noticeContent (chars ++ [char]) = none →
    completes (.characterEnd char true) s (fun t => t.Follows (s.heardFrom (noticeBay chars) id)))

/-- A valid notice of another bay (R5, R16, R37 to R40): the receiver is idle, the valid count rises by 1 up to 65535, the sender's entry
is created or refreshed, STATUS, WEATHER and HEALTH replace their part of it and no other kind does, and the other entries stay. -/
def Obligations.NoticeDelivered : Prop :=
  ∀ (bay : Nat) (n : Notice) (s : State), s.hears bay n →
    completes (.noticeReceived (n.frame bay)) s (fun t =>
      t.line.receiver = .idle ∧ t.line.valid = min 65535 (s.line.valid + 1) ∧ t.line.discard = s.line.discard ∧
      t.peerEntry bay = some
        { bay := bay, age := 0, fresh := true
          status := match n with
            | .status c => some c
            | _ => (s.peerEntry bay).bind (·.status)
          weather := match n with
            | .weather r => some ⟨r, 0, true⟩
            | _ => (s.peerEntry bay).bind (·.weather)
          health := match n with
            | .health h => some h
            | _ => (s.peerEntry bay).bind (·.health) } ∧
      (∀ b, b ≠ bay → t.peerEntry b = s.peerEntry b))

/-- STATUS and HEALTH of a peer act on its entry alone, and a STATUS that lowers the reckoned running current decides a deferred claim again,
and no other does (R45, R46, R121); WEATHER recombines the atrium weather record with the new report (R38 to R40, R47, R60). -/
def Obligations.ReportsTaken : Prop :=
  (∀ (bay : Nat) (c : StatusContent) (s : State), s.hears bay (.status c) →
    completes (.noticeReceived ((Notice.status c).frame bay)) s (fun t =>
      t.Follows (s.heardFrom bay (fun e => { e with status := some c })))) ∧
  (∀ (bay : Nat) (h : HealthContent) (s : State), s.hears bay (.health h) →
    completes (.noticeReceived ((Notice.health h).frame bay)) s (fun t =>
      t.Follows (s.heardFrom bay (fun e => { e with health := some h })))) ∧
  (∀ (bay : Nat) (c : StatusContent) (own : StartItem) (u s : State), s.hears bay (.status c) →
    u = s.heardFrom bay (fun e => { e with status := some c }) →
    s.bud.own.state = .deferred → s.bud.isoOpen = false → s.notSuperseded → s.ownItem own →
    completes (.noticeReceived ((Notice.status c).frame bay)) s (fun t =>
      (u.reckoned < s.reckoned → t.Rechecks u u own) ∧
      (s.reckoned ≤ u.reckoned → t.bud = u.bud ∧ ∀ c, t.chan c = s.chan c))) ∧
  (∀ (bay : Nat) (r : Report) (s : State), s.hears bay (.weather r) → s.DemandsFollow →
    completes (.noticeReceived ((Notice.weather r).frame bay)) s (fun t =>
      t.Redemands s ((s.heardFrom bay (fun e => { e with weather := some ⟨r, 0, true⟩ })).withAtrium
        (s.heardFrom bay (fun e => { e with weather := some ⟨r, 0, true⟩ })).combined)))

/-- FIRE and FIRE CLEAR of a peer (R75, R76, R85 to R88): the bay joins the origin set of the zone at its tail, where it is absent and
the set holds fewer than 8, or leaves it, and then the own bay takes the slot where a local fire stands in that zone; the fire demands
follow. -/
def Obligations.FireNotices : Prop :=
  (∀ (bay : Nat) (z : Zone) (contact heat : Bool) (s : State), s.hears bay (.fire z contact heat) →
    completes (.noticeReceived ((Notice.fire z contact heat).frame bay)) s (fun t =>
      t.Redemands s (State.withFire { s.heardFrom bay id with
        fire.origins := s.fire.origins.set z
          (if bay ∈ s.fire.origins.get z ∨ 8 ≤ (s.fire.origins.get z).length then s.fire.origins.get z
            else s.fire.origins.get z ++ [bay]) }))) ∧
  (∀ (bay : Nat) (z : Zone) (s : State), s.hears bay (.fireClear z) →
    completes (.noticeReceived ((Notice.fireClear z).frame bay)) s (fun t =>
      t.Redemands s (State.withFire { s.heardFrom bay id with
        fire.origins := s.fire.origins.set z
          (if bay ∈ s.fire.origins.get z ∧ s.localFire = true ∧ z = s.zone ∧ s.bay ∉ s.fire.origins.get z ∧
              ((s.fire.origins.get z).filter (fun b => b != bay)).length < 8
            then (s.fire.origins.get z).filter (fun b => b != bay) ++ [s.bay]
            else (s.fire.origins.get z).filter (fun b => b != bay)) })))

/-- OVERRIDE of a peer, and the expiry of its origin (R82 to R84): replaced with age 0, entered in a map of fewer than 4, ignored in a
full one, removed at RELEASED and at its expiry, but not where it is the own one or a notice of the same instant has brought it to age 0
(log entry 3); a changed effective override reaches every channel. -/
def Obligations.OverrideMap : Prop :=
  (∀ (bay : Nat) (k : KeyState) (s : State), s.hears bay (.override k) → k ≠ .released →
    completes (.noticeReceived ((Notice.override k).frame bay)) s (fun t =>
      t.Redemands s (State.withOverride { s.heardFrom bay id with
        fire.overrides :=
          if s.fire.overrides.any (fun o => o.bay == bay) then
            s.fire.overrides.map (fun o => if o.bay = bay then ⟨bay, decide (k = .open), some 0⟩ else o)
          else if s.fire.overrides.length < 4 then s.fire.overrides ++ [⟨bay, decide (k = .open), some 0⟩]
          else s.fire.overrides } s.fire.overrides))) ∧
  (∀ (bay : Nat) (s : State), s.hears bay (.override .released) →
    completes (.noticeReceived ((Notice.override .released).frame bay)) s (fun t =>
      t.Redemands s (State.withOverride { s.heardFrom bay id with
        fire.overrides := s.fire.overrides.filter (fun o => o.bay != bay) } s.fire.overrides))) ∧
  (∀ (bay : Nat) (s : State), (∃ o ∈ s.fire.overrides, o.bay = bay ∧ ∃ n ∈ o.age, n ≠ 0) →
    completes (.overrideOriginExpiry bay) s (fun t =>
      t.Redemands s (State.withOverride { s with
        fire.overrides := s.fire.overrides.filter (fun o => o.bay != bay) } s.fire.overrides))) ∧
  (∀ (bay : Nat) (s : State), (∀ o ∈ s.fire.overrides, o.bay = bay → o.age = some 0 ∨ o.age = none) →
    completes (.overrideOriginExpiry bay) s (fun t => t = s))

/-- VENTILATE of a peer, and the expiry of an origin (R95 to R97): replaced with age 0, entered in a map of fewer than 4, ignored in a full
one, removed where the zone set excludes the own zone and at its expiry, but not where a notice of the same instant has brought it to age
0 (log entry 3); the VENTILATE sources follow the largest target and the limits. -/
def Obligations.VentilationMap : Prop :=
  (∀ (bay : Nat) (zones : Four Bool) (v : Nat) (s : State), s.hears bay (.ventilate zones v) → zones.get s.zone = true →
    completes (.noticeReceived ((Notice.ventilate zones v).frame bay)) s (fun t =>
      t.Redemands s (State.withVentilate { s.heardFrom bay id with
        dem.ventMap :=
          if s.dem.ventMap.any (fun o => o.bay == bay) then
            s.dem.ventMap.map (fun o => if o.bay = bay then ⟨bay, v, 0⟩ else o)
          else if s.dem.ventMap.length < 4 then s.dem.ventMap ++ [⟨bay, v, 0⟩]
          else s.dem.ventMap }))) ∧
  (∀ (bay : Nat) (zones : Four Bool) (v : Nat) (s : State), s.hears bay (.ventilate zones v) → zones.get s.zone = false →
    completes (.noticeReceived ((Notice.ventilate zones v).frame bay)) s (fun t =>
      t.Redemands s (State.withVentilate { s.heardFrom bay id with
        dem.ventMap := s.dem.ventMap.filter (fun o => o.bay != bay) }))) ∧
  (∀ (bay : Nat) (s : State), (∃ o ∈ s.dem.ventMap, o.bay = bay ∧ o.age ≠ 0) →
    completes (.ventilationOriginExpiry bay) s (fun t =>
      t.Redemands s (State.withVentilate { s with dem.ventMap := s.dem.ventMap.filter (fun o => o.bay != bay) }))) ∧
  (∀ (bay : Nat) (s : State), (∀ o ∈ s.dem.ventMap, o.bay = bay → o.age = 0) →
    completes (.ventilationOriginExpiry bay) s (fun t => t = s))

/-- CLAIM of a peer (R111, R112, R121, R122): the bay's item is removed, of 16 items the oldest is, and the new item stands at the tail. A claim
whose own item leaves the list so ends, and where the station starts by claims, no supply veto stands and a channel waits, a claim is formed
anew at once and its CLAIM queued; a claim in DEFERRED is decided again where a removed item stood ahead of the own item or was
fire-flagged, and not otherwise.
That it is decided by the list without the removed items and before the new one stands in it, so that both orders of R112 agree, is log
entry 13, and that the Peer View takes the notice first, so that the running current it reads counts a sender that was stale, 61. -/
def Obligations.ClaimArrives : Prop :=
  (∀ (bay inrush : Nat) (set : Four Bool) (fire : Bool) (s : State), s.hears bay (.claim set inrush fire) →
    completes (.noticeReceived ((Notice.claim set inrush fire).frame bay)) s (fun t =>
      t.kept = State.kept { s.heardFrom bay id with
        bud.items := (s.bud.items.filter (fun i => i.bay != bay)).drop
            (if 16 ≤ (s.bud.items.filter (fun i => i.bay != bay)).length then 1 else 0) ++ [⟨bay, set, inrush, fire, 0⟩] } ∧
      (∀ c, (t.chan c).held = (s.chan c).held ∧ ((s.chan c).state ≠ .waiting → t.chan c = s.chan c)) ∧
      ((s.bud.own.state = .settling ∨ s.bud.own.state = .deferred) → holdsBay s.bay s.bud.items = true →
        holdsBay s.bay t.bud.items = false → t.bud.own.state = .none ∨ t.bud.own.state = .queued))) ∧
  (∀ (bay inrush : Nat) (set : Four Bool) (fire : Bool) (s : State), s.hears bay (.claim set inrush fire) →
    holdsBay bay s.bud.items = false → s.bud.items.length < 16 →
    completes (.noticeReceived ((Notice.claim set inrush fire).frame bay)) s (fun t =>
      t.Follows { s.heardFrom bay id with bud.items := s.bud.items ++ [⟨bay, set, inrush, fire, 0⟩] })) ∧
  (∀ (bay inrush : Nat) (set : Four Bool) (fire : Bool) (own : StartItem) (u v s : State), s.hears bay (.claim set inrush fire) →
    v = { s.heardFrom bay id with
      bud.items := (s.bud.items.filter (fun i => i.bay != bay)).drop
          (if 16 ≤ (s.bud.items.filter (fun i => i.bay != bay)).length then 1 else 0) } →
    u = { v with bud.items := v.bud.items ++ [⟨bay, set, inrush, fire, 0⟩] } →
    s.bud.own.state = .deferred → s.bud.isoOpen = false → s.notSuperseded → s.ownItem own → v.ownItem own →
    completes (.noticeReceived ((Notice.claim set inrush fire).frame bay)) s (fun t =>
      ((∃ i ∈ s.bud.items, i.bay = bay ∧ (i.fire = true ∨ i ∈ s.bud.items.takeWhile (fun x => x.bay != s.bay))) ∨
          16 ≤ (s.bud.items.filter (fun i => i.bay != bay)).length → t.Rechecks u v own) ∧
      ((∀ i ∈ s.bud.items, i.bay = bay → i.fire = false ∧ i ∉ s.bud.items.takeWhile (fun x => x.bay != s.bay)) →
        (s.bud.items.filter (fun i => i.bay != bay)).length < 16 →
        t.Follows u ∧ t.bud = u.bud ∧ ∀ c, t.chan c = s.chan c))) ∧
  (∀ (bay inrush : Nat) (set : Four Bool) (fire : Bool) (own : StartItem) (rest : List StartItem) (s : State),
    s.hears bay (.claim set inrush fire) → s.bud.items = own :: rest → rest.length = 15 → s.ownItem own →
    holdsBay bay s.bud.items = false → s.bud.own.state = .settling ∨ s.bud.own.state = .deferred → s.bud.isoOpen = false →
    completes (.noticeReceived ((Notice.claim set inrush fire).frame bay)) s (fun t =>
      t.Follows { s.heardFrom bay id with
        bud.items := rest ++ [⟨bay, set, inrush, fire, 0⟩], bud.own := OwnClaim.none, bud.settleTimer := none } ∧
      (s.claimsAllowed = true → s.supplyVeto = false → (∃ c, (s.chan c).state = .waiting) → t.bud.own = s.selectClaim ∧
        ∃ e ∈ t.line.queue, e.notice = .claim s.selectClaim.channels s.selectClaim.inrush s.selectClaim.fire)))

/-! ## The roof line: spans and sending -/

/-- A dominant span reaches 11 bit times (R6), or 2000 ms (R8): a notice being received is discarded, the receiver recovers; LINE_STUCK
and the isolation condition are set, and outside STARTING the live claim is dropped, a CLAIM that waits and is not in flight withdrawn, also one
with no live claim, and the isolated start timer set (R17, R125 to R127). -/
def Obligations.SpanReached : Prop :=
  (∀ (chars : List Byte) (b : Bool) (s : State), s.longSpan = false → s.line.flight = none → s.line.receiver = .receiving chars b →
    completes .span11BitTimes s (fun t => t.Follows { s with
      line.discard := min 255 (s.line.discard + 1), line.receiver := .recovering, line.recessive := 0
      line.breakAtEnd := false, line.span := some (max (s.line.span.getD 0) 55), line.spanLong := true })) ∧
  (∀ (s : State), s.longSpan = false → s.line.flight = none → s.line.receiver = .idle ∨ s.line.receiver = .recovering →
    completes .span11BitTimes s (fun t => t.Follows { s with
      line.receiver := .recovering, line.recessive := 0, line.breakAtEnd := false
      line.span := some (max (s.line.span.getD 0) 55), line.spanLong := true })) ∧
  (∀ (s : State), s.longSpan = true → s.line.isolation = false → s.fire.pulseTimer = none → s.StartRule →
    completes .lineStuck s (fun t =>
      t.kept = State.kept (State.withIsolation { s with
        line.span := some (max (s.line.span.getD 0) 192000), sup.faults := insertCode 1 s.sup.faults }) ∧
      ((∀ f ∈ s.line.flight, f.content.kind ≠ .claim) → ∀ e ∈ t.line.queue, e.notice.kind ≠ .claim) ∧
      (∀ c, t.chan c = s.chan c) ∧ t.bud.own.state = .none ∧ t.bud.isoOpen = false ∧
      t.bud.isoTimer = (if s.starting then none else some (200 * s.bay))))

/-- A dominant span is released and classified (R7, R8): under 11 bit times it is part of a character, below 400 ms a break, from 400 ms to
2000 ms a hold-down, which starts the general timer (R78), and a stuck line ends LINE_STUCK; the receiver recovers from the release. The
own break of 30 bit times and the own pulse of 600 ms release the terminal, and with another station driving on the span goes on (R13, R14).
At the end of a pulse the span that the timer has seen is classified: where it has seen none, since the drive did not reach the line, no
hold-down is passed on and the general timer runs from the beginning of the pulse alone (R78).
That the reading in the command counts with the span timer is log entry 4, and what a short span and the release of the own drive do, with the
effects of 11 bit times where their command has not come, and that the line is dominant during the own break, is log entry 14. -/
def Obligations.SpanReleased : Prop :=
  (∀ (len : Nat) (s : State), s.line.drive ≠ .breakPulse → s.longSpan = false →
    max (s.line.span.getD 0) (5 * len) < 55 →
    completes (.spanRelease len) s (fun t => t.Follows { s with line.span := none })) ∧
  (∀ (len : Nat) (s : State), s.line.drive = .breakPulse → completes (.spanRelease len) s (fun t => t = s)) ∧
  (∀ (len : Nat) (s : State), s.line.drive ≠ .breakPulse → s.longSpan = false → s.line.flight = none →
    1 ∉ s.sup.faults → 55 ≤ max (s.line.span.getD 0) (5 * len) → max (s.line.span.getD 0) (5 * len) < 38400 →
    completes (.spanRelease len) s (fun t => t.Follows { s with
      line.discard := match s.line.receiver with
        | .receiving _ _ => min 255 (s.line.discard + 1)
        | _ => s.line.discard
      line.receiver := .recovering, line.recessive := 0, line.span := none, line.spanLong := false, line.breakAtEnd := false })) ∧
  (∀ (len : Nat) (s : State), s.line.drive ≠ .breakPulse → s.longSpan = true → 1 ∈ s.sup.faults →
    completes (.spanRelease len) s (fun t => t.Follows { s with
      line.receiver := .recovering, line.recessive := 0, line.span := none, line.spanLong := false, line.breakAtEnd := false
      sup.faults := s.sup.faults.filter (fun n => n != 1) })) ∧
  (∀ (len : Nat) (s : State), s.line.drive ≠ .breakPulse → s.longSpan = true → 1 ∉ s.sup.faults →
    max (s.line.span.getD 0) (5 * len) < 38400 →
    completes (.spanRelease len) s (fun t => t.Follows { s with
      line.receiver := .recovering, line.recessive := 0, line.span := none, line.spanLong := false, line.breakAtEnd := false })) ∧
  (∀ (len : Nat) (s : State), s.line.drive ≠ .breakPulse → s.longSpan = true → 1 ∉ s.sup.faults →
    38400 ≤ max (s.line.span.getD 0) (5 * len) → max (s.line.span.getD 0) (5 * len) < 192000 →
    completes (.spanRelease len) s (fun t => t.Redemands s (State.withFire { s with
      line.receiver := .recovering, line.recessive := 0, line.span := none, line.spanLong := false, line.breakAtEnd := false
      fire.generalTimer := some 30000 }))) ∧
  (∀ (s : State), s.line.drive = .breakPulse → s.line.breakTimer.isSome = true → s.line.receiver = .recovering →
    s.line.flight = none →
    completes (.breakEnd none) s (fun t => t.Follows { s with
      line.drive := .released, line.breakTimer := none, line.pulseEndTimer := none
      line.breakAtEnd := if s.longSpan = true then s.line.breakAtEnd else false
      line.recessive := if s.longSpan = true then s.line.recessive else 0
      line.span := some (max (s.line.span.getD 0) 150), line.spanLong := true })) ∧
  (∀ (len : Nat) (s : State), s.line.drive = .breakPulse → s.line.breakTimer.isSome = true → s.line.receiver = .recovering →
    s.line.flight = none → 1 ∉ s.sup.faults → max (s.line.span.getD 0) (5 * len) < 38400 →
    completes (.breakEnd (some len)) s (fun t => t.Follows { s with
      line.drive := .released, line.breakTimer := none, line.pulseEndTimer := none, line.recessive := 0
      line.span := none, line.spanLong := false, line.breakAtEnd := false })) ∧
  (∀ (s : State), s.line.drive = .holdDown → s.line.pulseEndTimer.isSome = true →
    completes (.pulseEnd none) s (fun t => t.Follows { s with
      line.drive := .released, line.breakTimer := none, line.pulseEndTimer := none })) ∧
  (∀ (len : Nat) (s : State), s.line.drive = .holdDown → s.line.pulseEndTimer.isSome = true → s.longSpan = false →
    max (s.line.span.getD 0) (5 * len) < 55 →
    completes (.pulseEnd (some len)) s (fun t => t.Follows { s with
      line.drive := .released, line.breakTimer := none, line.pulseEndTimer := none, line.span := none })) ∧
  (∀ (len : Nat) (s : State), s.line.drive = .holdDown → s.line.pulseEndTimer.isSome = true → s.longSpan = true →
    1 ∉ s.sup.faults → max (s.line.span.getD 0) (5 * len) < 38400 →
    completes (.pulseEnd (some len)) s (fun t => t.Follows { s with
      line.drive := .released, line.breakTimer := none, line.pulseEndTimer := none, line.receiver := .recovering
      line.recessive := 0, line.span := none, line.spanLong := false, line.breakAtEnd := false })) ∧
  (∀ (len : Nat) (s : State), s.line.drive = .holdDown → s.line.pulseEndTimer.isSome = true → s.longSpan = true →
    1 ∉ s.sup.faults → 38400 ≤ max (s.line.span.getD 0) (5 * len) → max (s.line.span.getD 0) (5 * len) < 192000 →
    completes (.pulseEnd (some len)) s (fun t => t.Redemands s (State.withFire { s with
      line.drive := .released, line.breakTimer := none, line.pulseEndTimer := none, line.receiver := .recovering
      line.recessive := 0, line.span := none, line.spanLong := false, line.breakAtEnd := false
      fire.generalTimer := some 30000 })))

/-- An attempt begins where the line has been idle for 12 bit times and the back-off of the class (R9): the head notice goes in flight,
the counters of HEALTH filled at that instant (R16); with a shorter idle nothing happens. While it is sent the terminal is dominant in each
dominant bit of its characters, ten bits each, and is released from the first bit that reads otherwise than sent (R1, R2, R6, R10, R11). In
ISOLATED mode, and in SERVICE mode with the isolation condition set, the notice sent is no CLAIM (R127).
That the reading in the command counts with the idle count is log entry 4, and that the levels are functions of the State 55. -/
def Obligations.AttemptBegins : Prop :=
  (∀ (idle : Nat) (e : QueueEntry) (rest : List QueueEntry) (n : Notice) (s : State), s.line.queue = e :: rest →
    s.starting = false → s.line.drive = .released → s.line.receiver = .idle → s.line.flight = none →
    5 * (12 + match e.notice.noticeClass with
      | .alarm => 0
      | .motion => 8 + s.bay
      | .routine => 24 + s.bay) ≤ max s.line.recessive (5 * idle) →
    n = (match e.notice with
      | .health h => .health { h with valid := s.line.valid, discard := s.line.discard, dropped := s.line.dropped }
      | m => m) →
    completes (.attemptBegin idle) s (fun t => t = { s with
      line.drive := .notice, line.queue := { e with notice := n } :: rest
      line.flight := some ⟨n, n.frame s.bay, false⟩, line.span := some 0, line.recessive := 0 })) ∧
  (∀ (idle : Nat) (e : QueueEntry) (rest : List QueueEntry) (s : State), s.line.queue = e :: rest →
    max s.line.recessive (5 * idle) < 5 * (12 + match e.notice.noticeClass with
      | .alarm => 0
      | .motion => 8 + s.bay
      | .routine => 24 + s.bay) →
    completes (.attemptBegin idle) s (fun t => t = s)) ∧
  (∀ (idle : Nat) (s : State), s.StartRule → s.line.isolation = true → s.line.flight = none →
    completes (.attemptBegin idle) s (fun t => ∀ f ∈ t.line.flight, f.content.kind ≠ .claim)) ∧
  (∀ (frame : List Byte) (b : Byte) (n i : Nat), frame[n]? = some b → i < 10 →
    (lineChars frame).length = 10 * frame.length ∧ (lineChars frame)[10 * n + i]? = (lineChar b)[i]?) ∧
  (∀ (sent read : List Bool), sentLevels sent [] = sent ∧ sentLevels sent (sent ++ read) = sent) ∧
  (∀ (sent read : List Bool) (n k : Nat), read.take n = sent.take n → n < sent.length → n < read.length → read[n]? ≠ sent[n]? →
    n < k → (sentLevels sent read).getD k false = false) ∧
  (∀ (sent read : List Bool) (n k : Nat), read.take n = sent.take n → k ≤ n →
    (sentLevels sent read).getD k false = sent.getD k false) ∧
  (∀ (f : Flight) (read : List Bool) (bit : Nat) (s : State), s.line.drive = .notice → s.line.flight = some f →
    s.drives read bit = (sentLevels (lineChars f.frame) read).getD bit false)

/-- A failed attempt (R10 to R12, R17): the entry's count rises by 1, and at 16 a MOTION or ROUTINE entry is dropped, which ends a claim in
QUEUED, after which the claim is formed afresh where the formation test allows (R116); after lost contention the receiver goes on with the winner's notice, after an echo fault or a cut it recovers; the eighth echo
fault in a row sets the isolation condition, which drops the live claim and withdraws its CLAIM (R125, R126), and at later ones the run stays
at 8. That a CLAIM withdrawn in flight stays queued after a failed attempt, and leaves the queue where the isolation condition stands, is log
entry 50. -/
def Obligations.FailedAttempt : Prop :=
  (∀ (f : Flight) (s : State), s.line.flight = some f →
    (∀ e ∈ s.line.queue, e.notice.key = f.content.key → e.notice.noticeClass = .alarm ∨ e.failed < 15) →
    completes .lostContention s (fun t => t.Follows { s.afterAttempt (s.queueAfterFail f) with
      line.receiver := if s.line.receiver = .idle then .receiving [] true else s.line.receiver
      line.recessive := if s.line.receiver = .idle then 0 else s.line.recessive })) ∧
  (∀ (f : Flight) (s : State), s.line.flight = some f →
    (∃ e ∈ s.line.queue, e.notice.key = f.content.key ∧ e.notice.noticeClass ≠ .alarm ∧ 15 ≤ e.failed) →
    completes .lostContention s (fun t => t.Follows { s.afterAttempt
        (s.line.queue.filter (fun e => decide (e.notice.key ≠ f.content.key))) with
      line.dropped := min 255 (s.line.dropped + 1)
      line.receiver := if s.line.receiver = .idle then .receiving [] true else s.line.receiver
      line.recessive := if s.line.receiver = .idle then 0 else s.line.recessive
      bud.own := if f.content.kind = .claim ∧ s.bud.own.state = .queued then OwnClaim.none else s.bud.own } ∧
      (f.content.kind = .claim → s.bud.own.state = .queued → s.bud.isoOpen = false →
        s.claimsAllowed = true → s.supplyVeto = false → (∃ c, (s.chan c).state = .waiting) →
        t.bud.own = s.selectClaim ∧ t.line.queue.filter (fun e => decide (e.notice.kind = .claim)) =
          [⟨.claim s.selectClaim.channels s.selectClaim.inrush s.selectClaim.fire, 0, false⟩]))) ∧
  (∀ (f : Flight) (s : State), s.line.flight = some f → s.line.echoRun < 7 ∨ s.line.isolation = true →
    (∀ e ∈ s.line.queue, e.notice.key = f.content.key → e.notice.noticeClass = .alarm ∨ e.failed < 15) →
    completes .echoFault s (fun t => t.Follows { s.afterAttempt (s.queueAfterFail f) with
      line.echoRun := min 8 (s.line.echoRun + 1), line.receiver := .recovering, line.recessive := 0, line.breakAtEnd := false })) ∧
  (∀ (f : Flight) (s : State), s.line.flight = some f → s.line.echoRun = 7 → s.line.isolation = false →
    s.fire.pulseTimer = none → s.StartRule →
    (∀ e ∈ s.line.queue, e.notice.key = f.content.key → e.notice.noticeClass = .alarm ∨ e.failed < 15) →
    completes .echoFault s (fun t =>
      t.kept = State.kept (State.withIsolation { s.afterAttempt (s.queueAfterFail f) with
        line.echoRun := 8, line.receiver := .recovering, line.recessive := 0, line.breakAtEnd := false }) ∧
      (∀ e ∈ t.line.queue, e.notice.kind ≠ .claim) ∧
      (∀ c, t.chan c = s.chan c) ∧ t.bud.own.state = .none ∧ t.bud.isoOpen = false ∧
      t.bud.isoTimer = (if s.starting then none else some (200 * s.bay)))) ∧
  (∀ (f : Flight) (s : State), s.line.flight = some f → s.longSpan = false →
    (∀ e ∈ s.line.queue, e.notice.key = f.content.key → e.notice.noticeClass = .alarm ∨ e.failed < 15) →
    completes .span11BitTimes s (fun t => t.Follows { s.afterAttempt (s.queueAfterFail f) with
      line.receiver := .recovering, line.recessive := 0, line.breakAtEnd := false
      line.span := some (max (s.line.span.getD 0) 55), line.spanLong := true }))

/-- A clean echo (R12, R15, R16, R17, R113, R116): the entry leaves the queue, or, replaced in flight, stays with its new content and its count
at 0; the run of echo faults ends and with it the isolation condition; the values a HEALTH carried come off the counters; an own CLAIM
places the own item, whether or not its claim is live, and where it is the live claim's content the claim moves from QUEUED to
SETTLING for 100 ms. -/
def Obligations.CleanEcho : Prop :=
  (∀ (f : Flight) (q : List QueueEntry) (s : State), s.line.flight = some f → s.line.isolation = false →
    q = (if f.replaced = true then s.line.queue.map (fun e => if e.notice.key = f.content.key then { e with failed := 0 } else e)
      else s.line.queue.filter (fun e => decide (e.notice.key ≠ f.content.key))) →
    f.content.kind ≠ .health → f.content.kind ≠ .claim →
    completes .cleanEcho s (fun t => t.Follows { s.afterAttempt q with
      line.echoRun := 0, line.receiver := .idle, line.recessive := 0, line.span := none, line.spanLong := false
      line.breakAtEnd := false })) ∧
  (∀ (f : Flight) (h : HealthContent) (q : List QueueEntry) (s : State), s.line.flight = some f → s.line.isolation = false →
    q = (if f.replaced = true then s.line.queue.map (fun e => if e.notice.key = f.content.key then { e with failed := 0 } else e)
      else s.line.queue.filter (fun e => decide (e.notice.key ≠ f.content.key))) →
    f.content = .health h →
    completes .cleanEcho s (fun t => t.Follows { s.afterAttempt q with
      line.echoRun := 0, line.receiver := .idle, line.recessive := 0, line.span := none, line.spanLong := false
      line.breakAtEnd := false
      line.valid := s.line.valid - h.valid, line.discard := s.line.discard - h.discard
      line.dropped := s.line.dropped - h.dropped })) ∧
  (∀ (f : Flight) (set : Four Bool) (inrush : Nat) (fire : Bool) (q : List QueueEntry) (u s : State), s.line.flight = some f →
    s.line.isolation = false →
    q = (if f.replaced = true then s.line.queue.map (fun e => if e.notice.key = f.content.key then { e with failed := 0 } else e)
      else s.line.queue.filter (fun e => decide (e.notice.key ≠ f.content.key))) →
    f.content = .claim set inrush fire →
    u = { s.afterAttempt q with
      line.echoRun := 0, line.receiver := .idle, line.recessive := 0, line.span := none, line.spanLong := false
      line.breakAtEnd := false
      bud.items := (s.bud.items.filter (fun i => i.bay != s.bay)).drop
          (if 16 ≤ (s.bud.items.filter (fun i => i.bay != s.bay)).length then 1 else 0) ++ [⟨s.bay, set, inrush, fire, 0⟩] } →
    completes .cleanEcho s (fun t =>
      (f.replaced = true ∨ s.bud.own.state ≠ .queued → t.Follows u) ∧
      (f.replaced = false → s.bud.own.state = .queued →
        t.Follows { u with bud.own := { s.bud.own with state := .settling }, bud.settleTimer := some 100 } ∧
        (s.notSuperseded → t.bud.own = { s.bud.own with state := .settling } ∧ t.bud.settleTimer = some 100)))) ∧
  (∀ (f : Flight) (q : List QueueEntry) (b : BudgetUnit) (s : State), s.line.flight = some f → s.line.isolation = true →
    q = (if f.replaced = true then s.line.queue.map (fun e => if e.notice.key = f.content.key then { e with failed := 0 } else e)
      else s.line.queue.filter (fun e => decide (e.notice.key ≠ f.content.key))) →
    b = { s.bud with
      isoTimer := none, isoOpen := false
      items := match f.content with
        | .claim set inrush fire => (s.bud.items.filter (fun i => i.bay != s.bay)).drop
            (if 16 ≤ (s.bud.items.filter (fun i => i.bay != s.bay)).length then 1 else 0) ++ [⟨s.bay, set, inrush, fire, 0⟩]
        | _ => s.bud.items } →
    f.content.kind ≠ .health → s.bud.own.state = .none →
    completes .cleanEcho s (fun t => t.Follows { s.afterAttempt q with
      line.echoRun := 0, line.receiver := .idle, line.recessive := 0, line.span := none, line.spanLong := false
      line.breakAtEnd := false, line.isolation := false
      sup.faults := s.sup.faults.filter (fun n => n != 15)
      sup.mode := if s.sup.mode = .isolated then .normal else s.sup.mode
      fire.pulseTimer := none, bud := b })) ∧
  (∀ (f : Flight) (h : HealthContent) (q : List QueueEntry) (s : State), s.line.flight = some f → s.line.isolation = true →
    q = (if f.replaced = true then s.line.queue.map (fun e => if e.notice.key = f.content.key then { e with failed := 0 } else e)
      else s.line.queue.filter (fun e => decide (e.notice.key ≠ f.content.key))) →
    f.content = .health h → s.bud.own.state = .none →
    completes .cleanEcho s (fun t => t.Follows { s.afterAttempt q with
      line.echoRun := 0, line.receiver := .idle, line.recessive := 0, line.span := none, line.spanLong := false
      line.breakAtEnd := false, line.isolation := false
      line.valid := s.line.valid - h.valid, line.discard := s.line.discard - h.discard
      line.dropped := s.line.dropped - h.dropped
      sup.faults := s.sup.faults.filter (fun n => n != 15)
      sup.mode := if s.sup.mode = .isolated then .normal else s.sup.mode
      fire.pulseTimer := none, bud := { s.bud with isoTimer := none, isoOpen := false } }))

/-- A pre-emptive break begins between two characters, after a character has ended since its test held, and drives the line for 30 bit times,
marking the ALARM notice and abandoning the reception without a count (R13); before that end, and inside a character, none begins; a requested
pulse is driven for 600 ms and starts the general timer, whether or not the drive reaches the line, or is dropped while LINE_STUCK stands; it
waits for the end of an own attempt and of STARTING (R14, R78, R79). The terminal is dominant for
those times and else released, and the line is dominant while any station drives it (R1).
That a request made while a pulse is driven begins at once too, with 600 ms from then, is log entry 46, which end of a character the break takes 54,
that the span of a pulse begins with the edge it makes on the line 53, and that a test of R13 that held in STARTING still counts 56. -/
def Obligations.BreaksAndPulses : Prop :=
  (∀ (e : QueueEntry) (rest : List QueueEntry) (chars : List Byte) (s : State), s.line.queue = e :: rest →
    s.line.receiver = .receiving chars false → s.line.breakAtEnd = true → s.starting = false → s.line.drive = .released →
    s.line.flight = none → e.notice.noticeClass = .alarm → e.mark = false →
    completes .preemptiveBreak s (fun t => t = { s with
      line.drive := .breakPulse, line.breakTimer := some 150, line.receiver := .recovering, line.recessive := 0
      line.breakArmed := false, line.breakAtEnd := false
      line.queue := { e with mark := true } :: rest, line.span := some (s.line.span.getD 0) })) ∧
  (∀ (s : State), s.line.breakAtEnd = false ∨ (∃ chars, s.line.receiver = .receiving chars true) →
    completes .preemptiveBreak s (fun t => t = s)) ∧
  (∀ (read : List Bool) (bit : Nat) (s : State),
    (s.line.drive = .released → s.drives read bit = false) ∧
    (s.line.drive = .breakPulse → (s.drives read bit = true ↔ bit < 30)) ∧
    (s.line.drive = .holdDown → (s.drives read bit = true ↔ bit * 1000 < 600 * 19200))) ∧
  (∀ (own others : Bool), lineDominant own others = true ↔ own = true ∨ others = true) ∧
  (∀ (s : State), s.line.pulseRequested = false ∨ s.starting = true ∨ s.line.flight ≠ none →
    completes .pulseBegin s (fun t => t = s)) ∧
  (∀ (s : State), s.line.pulseRequested = true → s.starting = false → s.line.flight = none →
    1 ∈ s.sup.faults → completes .pulseBegin s (fun t => t = { s with line.pulseRequested := false })) ∧
  (∀ (s : State), s.line.pulseRequested = true → s.starting = false → s.line.flight = none →
    1 ∉ s.sup.faults →
    completes .pulseBegin s (fun t => t.Redemands s (State.withFire { s with
      line.pulseRequested := false, line.drive := .holdDown, line.breakTimer := none, line.pulseEndTimer := some 600
      line.span := if s.longSpan = true then s.line.span else none, fire.generalTimer := some 30000 })))

/-! ## The schedules and the Peer View -/

/-- A notice queued (R15): an entry of its key is replaced where it stands, its mark kept and its failed count 0, and an attempt in flight
goes on; another notice joins after the entries of its class and of the classes before it. Nothing else changes but the test of R13: a
break is armed where an unmarked ALARM heads the queue and a ROUTINE notice is being received of which more than 10 characters are to
come, counted from the end of the current character. A notice withdrawn (R24) leaves the queue where it is not in flight, and no
drop is counted.
That between two characters the one that ended last is the current one is log entry 44, and that an entry replaced in flight stays with its new content 52. -/
def Obligations.QueueNotice : Prop :=
  (∀ (n : Notice) (s : State),
    ((s.queueNotice n).line.breakArmed = true ↔ s.line.breakArmed = true ∨
      (s.line.flight = none ∧
        (s.queueNotice n).line.queue.head?.map (fun e => decide (e.notice.noticeClass = .alarm) && !e.mark) = some true ∧
        (match s.line.receiver with
          | .receiving (h :: _ :: l :: rest) inChar => decide (h.toNat % 4 = 3 ∧ rest.length + 13 + inChar.toNat < l.toNat + 5)
          | _ => false) = true)) ∧
    ((∃ e ∈ s.line.queue, e.notice.key = n.key) →
      s.queueNotice n = { s with
        line.queue := s.line.queue.map (fun e => if e.notice.key = n.key then { e with notice := n, failed := 0 } else e)
        line.flight := s.line.flight.map (fun f => { f with replaced := f.replaced || decide (f.content.key = n.key) })
        line.breakArmed := (s.queueNotice n).line.breakArmed }) ∧
    ((∀ e ∈ s.line.queue, e.notice.key ≠ n.key) → classOrder s.line.queue = true →
      s.queueNotice n = { s with
        line.queue := s.line.queue.filter (fun e => decide (e.notice.noticeClass.rank ≤ n.noticeClass.rank)) ++
          { notice := n, failed := 0, mark := false } ::
            s.line.queue.filter (fun e => decide (n.noticeClass.rank < e.notice.noticeClass.rank))
        line.breakArmed := (s.queueNotice n).line.breakArmed })) ∧
  (∀ (key : Kind × Option Zone) (s : State),
    s.withdraw key = { s with
      line.queue := s.line.queue.filter (fun e =>
        decide (e.notice.key ≠ key ∨ s.line.flight.map (fun f => f.content.key) = some key)) })

/-- The repetitions (R25 to R27, R31, R33, R75): FIRE with the causes that stand, which puts the own bay into its origin set again and
withdraws a FIRE CLEAR that waits; OVERRIDE with the taken key; WEATHER with the own report; HEALTH with the counters, the configuration
record and the first 16 fault codes. Each restarts its count. -/
def Obligations.RepeatedNotices : Prop :=
  (∀ (s : State), s.localFire = true → s.sched.fireResend.isSome = true →
    completes .fireResend s (fun t => t.Redemands s (State.withFire
      { (s.withdraw (.fireClear, some s.zone)).queueNotice (.fire s.zone s.fire.contact s.fire.heat) with
        sched.fireResend := some 10000
        fire.origins := s.fire.origins.set s.zone
          (if s.bay ∈ s.fire.origins.get s.zone ∨ 8 ≤ (s.fire.origins.get s.zone).length then s.fire.origins.get s.zone
            else s.fire.origins.get s.zone ++ [s.bay]) }))) ∧
  (∀ (s : State), s.sched.overrideRepeat.isSome = true →
    completes .overrideRepeat s (fun t => t.Follows
      { s.queueNotice (.override (match s.fire.keyTaken with
          | .auto => .released
          | .open => .open
          | .close => .close)) with
        sched.overrideRepeat := if s.fire.keyTaken = .auto then none else some 5000 })) ∧
  (∀ (s : State), s.sensorStation = true → s.sched.weatherPeriod.isSome = true →
    completes .weatherPeriod s (fun t => t.Follows
      { s.queueNotice (.weather s.wx.own) with sched.weatherPeriod := some 2000 })) ∧
  (∀ (s : State), s.sched.healthPeriod.isSome = true →
    completes .healthPeriod s (fun t => t.Follows
      { s.queueNotice (.health
          { valid := s.line.valid, discard := s.line.discard, dropped := s.line.dropped
            signature := if s.cfg.outcome = .lost then 0#16 else s.cfg.image.getD 63 0#16
            outcome := s.cfg.outcome, lastCorrected := s.cfg.lastCorrected, codes := s.sup.faults.take 16 }) with
        sched.healthPeriod := some 60000 }))

/-- STATUS (R29, R30): queued every 5 s with the station's present content, which becomes the content last queued; and at the end of the 200 ms
spacing exactly where mode, zone, alarmed zones or the general flag differ, a channel's state or source, its position by 20 or more or to
become 0 or 1000, or the own current by 5 or more; with the spacing over already, a current report that makes such a change queues it at once, and
one that makes none does not. -/
def Obligations.StatusQueued : Prop :=
  (∀ (s : State), s.starting = false → s.sched.statusPeriod.isSome = true →
    completes .statusPeriodic s (fun t => t.Follows
      { s.queueNotice (.status s.statusContent) with
        sched.lastStatus := some s.statusContent, sched.statusPeriod := some 5000, sched.statusSpacing := some 200 } ∧
      (∃ e ∈ t.line.queue, e.notice = .status s.statusContent) ∧
      s.statusContent =
        { mode := match s.sup.mode with
            | .service => .service
            | .isolated => .isolated
            | _ => .normal
          zone := s.zone
          fireZones := ⟨decide (s.fire.origins.one ≠ []), decide (s.fire.origins.two ≠ []), decide (s.fire.origins.three ≠ []),
            decide (s.fire.origins.four ≠ [])⟩
          general := s.fire.generalTimer.isSome
          current := min 65535 ((Quad.all.map (fun c => if (s.chan c).driven then (s.chan c).drv.current.getD 0 else 0)).sum)
          channels := (Quad.all.filter (fun c => decide ((s.chan c).state ≠ .absent))).map
            (fun c => ⟨(s.chan c).state, (s.chan c).dem.win.map Prod.fst, (s.chan c).drv.count * 1000 / s.stroke c⟩) })) ∧
  (∀ (last : StatusContent) (s : State), s.starting = false → s.sched.lastStatus = some last →
    last.channels.length = s.statusContent.channels.length →
    (∀ c, (s.chan c).state ≠ .waiting) → s.bud.own.state = .none →
    last.reportDue s.statusContent →
    completes .statusSpacingExpiry s (fun t => t.sched.lastStatus = some s.statusContent ∧
      t.sched.statusPeriod = some 5000 ∧ t.sched.statusSpacing = some 200 ∧
      ∃ e ∈ t.line.queue, e.notice = .status s.statusContent)) ∧
  (∀ (last : StatusContent) (s : State), s.sched.lastStatus = some last →
    last.channels.length = s.statusContent.channels.length →
    (∀ c, (s.chan c).state ≠ .waiting) → s.bud.own.state = .none →
    s.starting = true ∨ ¬last.reportDue s.statusContent →
    completes .statusSpacingExpiry s (fun t => t.sched = { s.sched with statusSpacing := none } ∧ t.line = s.line)) ∧
  (∀ (c : Chan) (mean : Nat) (last : StatusContent) (u s : State), (s.chan c).driven = true →
    (s.chan c).drv.reportTimer.isSome = true →
    u = s.setChan c { s.chan c with drv.current := some (min 65535 mean), drv.reportTimer := some 100 } →
    s.starting = false → s.sched.statusSpacing = none → s.sched.lastStatus = some last →
    last.channels.length = u.statusContent.channels.length → (∀ c, (s.chan c).state ≠ .waiting) → s.bud.own.state = .none →
    completes (.currentReport c mean) s (fun t =>
      (last.reportDue u.statusContent → t.sched.lastStatus = some u.statusContent ∧ t.sched.statusPeriod = some 5000 ∧
        t.sched.statusSpacing = some 200 ∧ ∃ e ∈ t.line.queue, e.notice = .status u.statusContent) ∧
      (¬last.reportDue u.statusContent → t.sched = s.sched ∧ t.line = s.line)))

/-- The demand input (R32, R96): a sample is floor(raw × 1000 / 1023), and where it differs by 10 or more from the target last queued a
VENTILATE is queued at once; each queuing restarts the 60 s period, and where the zone set holds the own zone it enters or replaces the
own origin, which in a full map takes the place of the oldest.
That this replacement is one change of the map, with one recomputation, is log entry 38. -/
def Obligations.VentilateQueued : Prop :=
  (∀ (raw : Raw) (s : State), s.detected = true → s.fields.demandFitted = true →
    (∀ q ∈ s.sched.lastVentilate, raw.toNat * 1000 / 1023 < q + 10 ∧ q < raw.toNat * 1000 / 1023 + 10) →
    completes (.vdemSample raw) s (fun t => t = { s with dem.sample := raw.toNat * 1000 / 1023 })) ∧
  (∀ (raw : Raw) (s : State), s.detected = true → s.fields.demandFitted = true →
    (∃ q ∈ s.sched.lastVentilate, q + 10 ≤ raw.toNat * 1000 / 1023 ∨ raw.toNat * 1000 / 1023 + 10 ≤ q) →
    (ofBits4 s.fields.ventZones).get s.zone = true → s.dem.ventMap.length < 4 →
    completes (.vdemSample raw) s (fun t => t.Redemands s (State.withVentilate
      { s.queueNotice (.ventilate (ofBits4 s.fields.ventZones) (raw.toNat * 1000 / 1023)) with
        sched.ventilatePeriod := some 60000, sched.lastVentilate := some (raw.toNat * 1000 / 1023)
        dem.sample := raw.toNat * 1000 / 1023
        dem.ventMap := if s.dem.ventMap.any (fun o => o.bay == s.bay) then
            s.dem.ventMap.map (fun o => if o.bay = s.bay then ⟨s.bay, raw.toNat * 1000 / 1023, 0⟩ else o)
          else s.dem.ventMap ++ [⟨s.bay, raw.toNat * 1000 / 1023, 0⟩] }))) ∧
  (∀ (s : State), s.fields.demandFitted = true → s.sched.ventilatePeriod.isSome = true →
    (ofBits4 s.fields.ventZones).get s.zone = false →
    completes .ventilatePeriod s (fun t => t.Follows
      { s.queueNotice (.ventilate (ofBits4 s.fields.ventZones) s.dem.sample) with
        sched.ventilatePeriod := some 60000, sched.lastVentilate := some s.dem.sample })) ∧
  (∀ (o : VentOrigin) (s : State), s.fields.demandFitted = true → s.sched.ventilatePeriod.isSome = true →
    (ofBits4 s.fields.ventZones).get s.zone = true → s.dem.ventMap.length = 4 → (∀ x ∈ s.dem.ventMap, x.bay ≠ s.bay) →
    o ∈ s.dem.ventMap → (∀ x ∈ s.dem.ventMap, x = o ∨ x.age < o.age ∨ (x.age = o.age ∧ x.bay < o.bay)) →
    completes .ventilatePeriod s (fun t => t.Redemands s (State.withVentilate
      { s.queueNotice (.ventilate (ofBits4 s.fields.ventZones) s.dem.sample) with
        sched.ventilatePeriod := some 60000, sched.lastVentilate := some s.dem.sample
        dem.ventMap := s.dem.ventMap.filter (fun x => x.bay != o.bay) ++ [⟨s.bay, s.dem.sample, 0⟩] })))

/-- The ages of a peer entry (R42 to R47): a report expires, is no longer offered, and the record is recombined; a stale entry is no longer
fresh; a removed entry leaves the map; BAY_CONFLICT clears; and none of these happens to what a notice of the same instant has just set to
age 0 or restarted (log entry 3). The reckoned running current is the own and that of the fresh entries with a status part; where a stale entry
lowers it a deferred claim is decided again (R121), and elsewhere not.
That a removal recombines the record where the entry still offered a report is log entry 27. -/
def Obligations.PeerAgeing : Prop :=
  (∀ (bay : Nat) (s : State), s.DemandsFollow →
    (∃ e ∈ s.peer.entries, e.bay = bay ∧ ∃ h ∈ e.weather, h.offered = true ∧ h.age ≠ 0) →
    completes (.reportExpiry bay) s (fun t =>
      t.peer.entries = s.peer.entries.map (fun e => if e.bay = bay then { e with
        weather := e.weather.map (fun h => { h with offered := false, age := max h.age 10000 }) } else e) ∧
      t.Redemands s ({ s with peer.entries := t.peer.entries }.withAtrium
        { s with peer.entries := t.peer.entries }.combined))) ∧
  (∀ (bay : Nat) (s : State), (∃ e ∈ s.peer.entries, e.bay = bay ∧ e.age ≠ 0) →
    completes (.entryStale bay) s (fun t => t.Follows { s with
      peer.entries := s.peer.entries.map (fun e =>
        if e.bay = bay then { e with fresh := false, age := max e.age 15000 } else e) })) ∧
  (∀ (bay : Nat) (s : State), (∃ e ∈ s.peer.entries, e.bay = bay ∧ e.age ≠ 0) →
    (∀ e ∈ s.peer.entries, e.bay = bay → (e.weather.map (·.offered)) ≠ some true) →
    completes (.entryRemoval bay) s (fun t => t.Follows { s with
      peer.entries := s.peer.entries.filter (fun e => e.bay != bay) })) ∧
  (∀ (bay : Nat) (s : State), s.DemandsFollow →
    (∃ e ∈ s.peer.entries, e.bay = bay ∧ e.age ≠ 0) →
    (∃ e ∈ s.peer.entries, e.bay = bay ∧ (e.weather.map (·.offered)) = some true) →
    completes (.entryRemoval bay) s (fun t => t.Redemands s
      ({ s with peer.entries := s.peer.entries.filter (fun e => e.bay != bay) }.withAtrium
        { s with peer.entries := s.peer.entries.filter (fun e => e.bay != bay) }.combined))) ∧
  (∀ (n : Nat) (s : State), s.peer.conflictTimer = some n → n ≠ 60000 →
    completes .bayConflictExpiry s (fun t => t.Follows { s with
      peer.conflictTimer := none, sup.faults := s.sup.faults.filter (fun n => n != 2) })) ∧
  (∀ (bay : Nat) (s : State), (∀ e ∈ s.peer.entries, e.bay = bay → ∀ h ∈ e.weather, h.age = 0) →
    completes (.reportExpiry bay) s (fun t => t = s)) ∧
  (∀ (bay : Nat) (s : State), (∀ e ∈ s.peer.entries, e.bay = bay → e.age = 0) →
    completes (.entryStale bay) s (fun t => t = s) ∧ completes (.entryRemoval bay) s (fun t => t = s)) ∧
  (∀ (s : State), s.peer.conflictTimer = some 60000 → completes .bayConflictExpiry s (fun t => t = s)) ∧
  (∀ (s : State), s.reckoned = min 65535 (s.statusContent.current +
    ((s.peer.entries.filter (·.fresh)).map (fun e => (e.status.map StatusContent.current).getD 0)).sum)) ∧
  (∀ (bay : Nat) (own : StartItem) (u s : State), (∃ e ∈ s.peer.entries, e.bay = bay ∧ e.age ≠ 0) →
    u = { s with peer.entries := s.peer.entries.map (fun e =>
      if e.bay = bay then { e with fresh := false, age := max e.age 15000 } else e) } →
    s.bud.own.state = .deferred → s.bud.isoOpen = false → s.notSuperseded → s.ownItem own →
    completes (.entryStale bay) s (fun t =>
      (u.reckoned < s.reckoned → t.Rechecks u u own) ∧
      (s.reckoned ≤ u.reckoned → t.bud = u.bud ∧ ∀ c, t.chan c = s.chan c)))

/-! ## The sensors and the weather -/

/-- A gate ends (R50 to R52, R55): with the anemometer confirmed the speed min(600, floor(pulses × K / 100)) joins the ring of ten, mean and
gust are those of the ring and of its newest three; with the vane confirmed the direction is floor(raw × 360 / 1024) plus the north offset
modulo 360, absent with VANE_SENSOR for a raw value out of 3 to 1020; a changed report recombines the record.
That the pulses of the gate are those of the gate count and those that come with the command is the model's choice, log entry 31; that a
gate which changes several fields recombines the record once is log entry 37. -/
def Obligations.GateMeasured : Prop :=
  ∀ (pulses : Nat) (vane : Raw) (ring : List Nat) (s : State), s.wx.gateTimer.isSome = true → s.DemandsFollow →
    ring = (if s.sup.presence.anemo = some true then
        (s.wx.ring ++ [min 600 ((s.wx.gateCount + pulses) * s.fields.k / 100)]).drop (s.wx.ring.length + 1 - 10)
      else s.wx.ring) →
    completes (.gateEnd pulses vane) s (fun t => t.Redemands s (State.withReport
      { s with
        wx.gateTimer := some 1000, wx.gateCount := 0, wx.ring := ring
        sup.faults := if s.sup.presence.vane = some true then
            (if 3 ≤ vane.toNat ∧ vane.toNat ≤ 1020 then s.sup.faults.filter (fun n => n != 48) else insertCode 48 s.sup.faults)
          else s.sup.faults }
      { mean := if s.sup.presence.anemo = some true then some (ring.sum / ring.length) else s.wx.own.mean
        gust := if s.sup.presence.anemo = some true then some (((ring.reverse.take 3).max?).getD 0) else s.wx.own.gust
        direction := if s.sup.presence.vane = some true then
            (if 3 ≤ vane.toNat ∧ vane.toNat ≤ 1020 then some ((vane.toNat * 360 / 1024 + s.fields.northOffset) % 360) else none)
          else s.wx.own.direction
        rain := s.wx.own.rain }))

/-- A rain scan (R53, R54, R55): a raw value out of 4 to 1019 sets RAIN_SENSOR, clears the runs and makes the field absent; one below the
threshold is wet, and two wet scans in a row set the flag; another is dry, and the flag clears after the dry scans of the hold. -/
def Obligations.RainScanned : Prop :=
  (∀ (raw : Raw) (s : State), s.wx.rainTimer.isSome = true → s.DemandsFollow → raw.toNat < 4 ∨ 1019 < raw.toNat →
    completes (.rainScan raw) s (fun t => t.Redemands s (State.withReport
      { s with
        wx.rainTimer := some s.fields.rainPeriod, wx.wetRun := 0, wx.dryRun := 0, sup.faults := insertCode 9 s.sup.faults }
      { s.wx.own with rain := none }))) ∧
  (∀ (raw : Raw) (wet : Bool) (s : State), s.wx.rainTimer.isSome = true → s.DemandsFollow → 4 ≤ raw.toNat → raw.toNat ≤ 1019 →
    raw.toNat < s.fields.rainThreshold → wet = (s.wx.rainFlag || decide (1 ≤ s.wx.wetRun)) →
    completes (.rainScan raw) s (fun t => t.Redemands s (State.withReport
      { s with
        wx.rainTimer := some s.fields.rainPeriod, wx.wetRun := min 2 (s.wx.wetRun + 1), wx.dryRun := 0, wx.rainFlag := wet
        sup.faults := s.sup.faults.filter (fun n => n != 9) }
      { s.wx.own with rain := some wet }))) ∧
  (∀ (raw : Raw) (n : Nat) (wet : Bool) (s : State), s.wx.rainTimer.isSome = true → s.DemandsFollow → 4 ≤ raw.toNat →
    raw.toNat ≤ 1019 → s.fields.rainThreshold ≤ raw.toNat → n = s.fields.rainHold * 60000 / s.fields.rainPeriod →
    wet = (s.wx.rainFlag && decide (s.wx.dryRun + 1 < n)) →
    completes (.rainScan raw) s (fun t => t.Redemands s (State.withReport
      { s with
        wx.rainTimer := some s.fields.rainPeriod, wx.wetRun := 0, wx.dryRun := min n (s.wx.dryRun + 1), wx.rainFlag := wet
        sup.faults := s.sup.faults.filter (fun n => n != 9) }
      { s.wx.own with rain := some wet })))

/-- A heat sample (R56 to R59): out of 4 to 1019 it sets HEAT_SENSOR and empties the ring and the runs; in range the temperature is
25.0 °C plus (raw − CAL) × 100 / S_heat, truncated toward zero and clamped to −40.0 to 150.0 °C; a run of three at or above Th, or of
three with the full ring risen by Rr, sets the alarm, and 300 calm samples in a row clear it; the HEAT cause follows the alarm. -/
def Obligations.HeatSampled : Prop :=
  (∀ (raw : Raw) (s : State), s.wx.heatTimer.isSome = true → raw.toNat < 4 ∨ 1019 < raw.toNat →
    completes (.heatSample raw) s (fun t => t.Follows { s with
      wx.heatTimer := some 1000, wx.heatRing := [], wx.fixedRun := 0, wx.rateRun := 0, wx.clearRun := 0
      sup.faults := insertCode 8 s.sup.faults })) ∧
  (∀ (raw : Raw) (x : Int) (ring : List Int) (rate : Bool) (fixed rising : Nat) (s : State), s.wx.heatTimer.isSome = true →
    4 ≤ raw.toNat → raw.toNat ≤ 1019 →
    x = max (-400) (min 1500 (250 + Int.tdiv (((raw.toNat : Int) - s.fields.cal) * 100) s.fields.sHeat)) →
    ring = (s.wx.heatRing ++ [x]).drop (s.wx.heatRing.length + 1 - 61) →
    rate = decide (ring.length = 61 ∧ (s.fields.rr : Int) ≤ x - ring.headD 0) →
    fixed = (if (s.fields.th : Int) ≤ x then s.wx.fixedRun + 1 else 0) → rising = (if rate then s.wx.rateRun + 1 else 0) →
    s.wx.heatAlarm = false → s.fire.heat = false →
    completes (.heatSample raw) s (fun t =>
      (fixed ≠ 3 → rising ≠ 3 → t.Follows { s with
        wx.heatTimer := some 1000, wx.heatRing := ring, wx.fixedRun := fixed, wx.rateRun := rising, wx.clearRun := 0
        sup.faults := s.sup.faults.filter (fun n => n != 8) }) ∧
      (fixed = 3 ∨ rising = 3 → t.Redemands s (State.withCauses { s with
        wx.heatTimer := some 1000, wx.heatRing := ring, wx.fixedRun := fixed, wx.rateRun := rising, wx.clearRun := 0
        wx.heatAlarm := true, sup.faults := s.sup.faults.filter (fun n => n != 8) } s.fire.contact true)))) ∧
  (∀ (raw : Raw) (x : Int) (ring : List Int) (rate : Bool) (fixed rising calm : Nat) (s : State), s.wx.heatTimer.isSome = true →
    4 ≤ raw.toNat → raw.toNat ≤ 1019 →
    x = max (-400) (min 1500 (250 + Int.tdiv (((raw.toNat : Int) - s.fields.cal) * 100) s.fields.sHeat)) →
    ring = (s.wx.heatRing ++ [x]).drop (s.wx.heatRing.length + 1 - 61) →
    rate = decide (ring.length = 61 ∧ (s.fields.rr : Int) ≤ x - ring.headD 0) →
    fixed = (if (s.fields.th : Int) ≤ x then s.wx.fixedRun + 1 else 0) → rising = (if rate then s.wx.rateRun + 1 else 0) →
    calm = (if x < (s.fields.th : Int) - 50 ∧ rate = false then s.wx.clearRun + 1 else 0) →
    s.wx.heatAlarm = true → s.fire.heat = true →
    completes (.heatSample raw) s (fun t =>
      (calm ≠ 300 → t.Follows { s with
        wx.heatTimer := some 1000, wx.heatRing := ring, wx.fixedRun := fixed, wx.rateRun := rising, wx.clearRun := calm
        sup.faults := s.sup.faults.filter (fun n => n != 8) }) ∧
      (calm = 300 → t.Redemands s (State.withCauses { s with
        wx.heatTimer := some 1000, wx.heatRing := ring, wx.fixedRun := fixed, wx.rateRun := rising, wx.clearRun := 0
        wx.heatAlarm := false, sup.faults := s.sup.faults.filter (fun n => n != 8) } s.fire.contact false))))

/-- The atrium weather record (R60 to R63): W is the mean of the first-ranked report, D the direction of the first in the ranking that
carries one, G the largest gust, or W, and rain where a report is wet; storm sets at W_storm, and below the clear level its timer runs; with
no mean the weather is unknown. The timer's expiry clears storm, and the WEATHER source follows (R64). -/
def Obligations.AtriumCombined : Prop :=
  (∀ (bay : Nat) (r : Report) (s : State),
    (bay, r) ∈ s.reports ↔ (s.sensorStation = true ∧ bay = s.bay ∧ r = s.wx.own) ∨
      ∃ e ∈ s.peer.entries, e.bay = bay ∧ ∃ h ∈ e.weather, h.offered = true ∧ h.report = r) ∧
  (∀ (s : State), (∀ e ∈ s.reports, e.2.mean = none) →
    s.combined = { w := 0, d := none, g := 0, rain := s.reports.any (fun e => e.2.rain == some true), unknown := true
                   storm := true, stormTimer := none }) ∧
  (∀ (s : State) (e : Nat × Report) (m : Nat), e ∈ s.reports → e.2.mean = some m →
    (∀ x ∈ s.reports, ∀ n ∈ x.2.mean, n < m ∨ (n = m ∧ e.1 ≤ x.1)) →
    s.combined.unknown = false ∧ s.combined.w = m ∧
    s.combined.rain = s.reports.any (fun x => x.2.rain == some true) ∧
    s.combined.g = (((s.reports.filterMap (fun x => x.2.gust)).max?).getD m) ∧
    (s.wx.atrium.storm = false → s.combined.storm = decide (s.fields.wStorm ≤ s.combined.g) ∧ s.combined.stormTimer = none) ∧
    (s.wx.atrium.storm = true → s.combined.storm = true ∧
      s.combined.stormTimer = if s.combined.g < max 1 (s.fields.wStorm - s.fields.wHys) then
        some (s.wx.atrium.stormTimer.getD 60000) else none)) ∧
  (∀ (s : State) (e : Nat × Report) (m : Nat), e ∈ s.reports → e.2.mean = some m → e.2.direction.isSome = true →
    (∀ x ∈ s.reports, x.2.direction.isSome = true → ∀ n ∈ x.2.mean, n < m ∨ (n = m ∧ (e.1 < x.1 ∨ e = x))) →
    s.combined.d = e.2.direction) ∧
  (∀ (s : State), (∀ e ∈ s.reports, e.2.mean.isSome = true → e.2.direction = none) → s.combined.d = none) ∧
  (∀ (s : State), s.wx.atrium.stormTimer.isSome = true →
    completes .stormClearExpiry s (fun t => t.Redemands s (State.withWeather { s with
      wx.atrium.storm := false, wx.atrium.stormTimer := none })))

/-- The windward arithmetic of a channel (R62, R65 to R68): the folded angle A, the component Wn by the factor of A to the nearest 5
degrees, the ventilation limit L from Weff, and the fire windward block with its hysteresis. -/
def Obligations.WindwardResults : Prop :=
  (∀ (s : State) (r : Atrium) (c : Chan), r.unknown = true → s.windAfter r c = { wn := 0, limit := 0, block := false }) ∧
  (∀ (s : State) (r : Atrium) (c : Chan), r.unknown = false → r.d = none →
    (s.windAfter r c).wn = r.w ∧ (s.windAfter r c).block = false) ∧
  (∀ (d a fold : Nat) (s : State) (r : Atrium) (c : Chan), r.unknown = false → r.d = some d →
    a = (((d : Int) - (s.chFields c).facing) % 360).toNat → fold = (if 180 < a then 360 - a else a) →
    (s.windAfter r c).wn = (if 90 < fold then 0
      else r.w * ([256, 255, 252, 247, 241, 232, 222, 210, 196, 181, 165, 147, 128, 108, 88, 66, 44, 22, 0].getD
        ((fold + 2) / 5) 0) / 256) ∧
    (s.cfg.outcome = .lost → (s.windAfter r c).block = false) ∧
    (s.cfg.outcome ≠ .lost → (s.windAfter r c).block =
      if (s.chan c).wind.block then decide (s.fields.wf - s.fields.wHys ≤ (s.windAfter r c).wn)
      else decide (s.fields.wf ≤ (s.windAfter r c).wn))) ∧
  (∀ (weff : Nat) (s : State) (r : Atrium) (c : Chan), r.unknown = false → weff = max (s.windAfter r c).wn (r.w / 2) →
    (s.windAfter r c).limit =
      if weff ≤ s.fields.wvLo then 1000
      else if s.fields.wvHi ≤ weff then 0
      else 1000 * (s.fields.wvHi - weff) / (s.fields.wvHi - s.fields.wvLo)) ∧
  (∀ (s : State) (r : Atrium) (c : Chan), (s.windAfter r c).wn ≤ r.w ∧ (s.windAfter r c).limit ≤ 1000)

/-! ## The fire loop, the general alarm and the keys -/

/-- The fire loop (R71 to R75): a reading of another class restarts the 300 ms; a candidate that settles becomes the loop class with its
fault and no other loop fault; ALARM begins CONTACT, NORMAL starts the 5 s that end it.
That LOOP_SETTLE takes the candidate as it stands is log entry 47. -/
def Obligations.FireLoop : Prop :=
  (∀ (raw : Raw) (cl : LoopClass) (s : State), s.detected = true →
    cl = (if raw.toNat ≤ 102 then .short else if raw.toNat ≤ 409 then .alarm else if raw.toNat ≤ 716 then .normal
      else if raw.toNat ≤ 869 then .drift else .open) →
    completes (.loopReading raw) s (fun t => t = { s with
      fire.sampleClass := some cl, fire.candidate := some cl
      fire.candidateTimer := if s.fire.candidate = some cl then s.fire.candidateTimer else some 300 })) ∧
  (∀ (cl : LoopClass) (s : State), s.fire.candidate = some cl → s.fire.candidateTimer.isSome = true → s.fire.loopClass = some cl →
    completes .loopSettle s (fun t => t = { s with fire.candidateTimer := none })) ∧
  (∀ (cl : LoopClass) (s : State), s.fire.candidate = some cl → s.fire.candidateTimer.isSome = true → s.fire.loopClass ≠ some cl →
    cl ≠ .alarm ∨ s.fire.contact = true → s.faultsWf = true →
    completes .loopSettle s (fun t => t.Follows { s with
      fire.loopClass := some cl, fire.candidateTimer := none
      fire.contactTimer := if s.fire.contact = true ∧ cl = .normal then some 5000 else none
      sup.faults := match cl with
        | .open => insertCode 5 (s.sup.faults.filter (fun n => decide (n < 5 ∨ 7 < n)))
        | .short => insertCode 6 (s.sup.faults.filter (fun n => decide (n < 5 ∨ 7 < n)))
        | .drift => insertCode 7 (s.sup.faults.filter (fun n => decide (n < 5 ∨ 7 < n)))
        | _ => s.sup.faults.filter (fun n => decide (n < 5 ∨ 7 < n)) })) ∧
  (∀ (s : State), s.fire.candidate = some .alarm → s.fire.candidateTimer.isSome = true → s.fire.loopClass ≠ some .alarm →
    s.fire.contact = false →
    completes .loopSettle s (fun t => t.Redemands s (State.withCauses { s with
      fire.loopClass := some .alarm, fire.candidateTimer := none, fire.contactTimer := none
      sup.faults := s.sup.faults.filter (fun n => decide (n < 5 ∨ 7 < n)) } true s.fire.heat))) ∧
  (∀ (s : State), s.fire.contactTimer.isSome = true → s.fire.contact = true →
    completes .contactClearExpiry s (fun t => t.Redemands s (State.withCauses { s with
      fire.contactTimer := none } false s.fire.heat)))

/-- The general timer and the pulses (R78, R79): with the timer out the columns fall with it, but a timer that a hold-down of the same instant
has restarted runs on (log entry 3); a pulse is requested every 5 s; and the pulse
timer runs in every state of a run exactly while a local fire stands, the isolation condition is set and the station is not in STARTING. -/
def Obligations.FireTimers : Prop :=
  (∀ (n : Nat) (s : State), s.fire.generalTimer = some n → n ≠ 30000 →
    completes .generalTimerExpiry s (fun t => t.Redemands s (State.withFire { s with fire.generalTimer := none }))) ∧
  (∀ (s : State), s.fire.generalTimer = some 30000 → completes .generalTimerExpiry s (fun t => t = s)) ∧
  (∀ (s : State), s.fire.pulseTimer.isSome = true → s.localFire = true → s.line.isolation = true → s.starting = false →
    completes .pulseTimerExpiry s (fun t => t.Follows { s with
      fire.pulseTimer := some 5000, line.pulseRequested := s.line.pulseRequested || !s.sup.faults.contains 1 })) ∧
  (∀ (c : Instr) (s : State),
    (s.fire.pulseTimer.isSome = true ↔ s.localFire = true ∧ s.line.isolation = true ∧ s.starting = false) →
    completes c s (fun t =>
      (t.fire.pulseTimer.isSome = true ↔ t.localFire = true ∧ t.line.isolation = true ∧ t.starting = false)))

/-- The fire action and the fire demand of a channel (R85 to R87): the strongest entry of the alarmed columns in the order OPEN, CLOSE,
FREEZE, NONE; OPEN gives 1000, or 0 under the windward block, CLOSE 0, FREEZE the capture taken as the action became FREEZE. -/
def Obligations.FireActionDemand : Prop :=
  (∀ (s : State) (c : Chan),
    (s.fireAction c = .open ↔ s.alarmGives c .open) ∧
    (s.fireAction c = .close ↔ s.alarmGives c .close ∧ ¬s.alarmGives c .open) ∧
    (s.fireAction c = .freeze ↔ s.alarmGives c .freeze ∧ ¬s.alarmGives c .open ∧ ¬s.alarmGives c .close)) ∧
  (∀ (s : State) (c : Chan), (s.chan c).fire.action = .freeze → s.newCapture c .freeze = (s.chan c).fire.capture) ∧
  (∀ (s : State) (c : Chan), (s.chan c).fire.action ≠ .freeze →
    s.newCapture c .freeze =
      if (s.chan c).drv.referenced = true ∧ s.strokeKnown c = true then some (.pos (s.position c)) else some .hold) ∧
  (∀ (a : FireAction) (s : State) (c : Chan), a ≠ .freeze → s.newCapture c a = none) ∧
  (∀ (k : Channel), k.fireDemand = match k.fire.action with
    | .open => some (.pos (if k.wind.block then 0 else 1000))
    | .close => some (.pos 0)
    | .freeze => k.fire.capture
    | .none => none)

/-- The two keys (R27, R80, R81, R91): a reading other than the taken position is a candidate for 100 ms; the firefighter key taken queues
OVERRIDE, with its 5 s repetition, and enters, replaces or removes the own origin, which never expires and in a full map takes the place of
the oldest; the local key taken changes LOCAL on every channel. Both contacts closed count as OPEN there and as AUTO here.
That the own origin takes the oldest's place in one change of the map, with one recomputation, is log entry 38; that FKEY_TAKEN and LKEY_TAKEN
take the candidate as it stands is log entry 47. -/
def Obligations.Keys : Prop :=
  (∀ (o cl : Bool) (pos : KeyPos) (s : State), s.detected = true →
    pos = (if o then .open else if cl then .close else .auto) →
    completes (.fkeyReading o cl) s (fun t => t = if s.fire.keyCandidate = some pos then s
      else if s.fire.keyTaken = pos then { s with fire.keyCandidate := none, fire.keyTimer := none }
      else { s with fire.keyCandidate := some pos, fire.keyTimer := some 100 })) ∧
  (∀ (o cl : Bool) (pos : KeyPos) (s : State), s.detected = true →
    pos = (if o = cl then .auto else if o then .open else .close) →
    completes (.lkeyReading o cl) s (fun t => t = if s.dem.keyCandidate = some pos then s
      else if s.dem.keyTaken = pos then { s with dem.keyCandidate := none, dem.keyTimer := none }
      else { s with dem.keyCandidate := some pos, dem.keyTimer := some 100 })) ∧
  (∀ (pos : KeyPos) (s : State), s.dem.keyCandidate = some pos → s.dem.keyTimer.isSome = true →
    completes .lkeyTaken s (fun t => t.Redemands s (State.withLocal { s with
      dem.keyTaken := pos, dem.keyCandidate := none, dem.keyTimer := none }))) ∧
  (∀ (s : State), s.fire.keyCandidate = some .auto → s.fire.keyTimer.isSome = true →
    completes .fkeyTaken s (fun t => t.Redemands s (State.withOverride
      { s.queueNotice (.override .released) with
        fire.keyTaken := .auto, fire.keyCandidate := none, fire.keyTimer := none, sched.overrideRepeat := none
        fire.overrides := s.fire.overrides.filter (fun x => x.bay != s.bay) } s.fire.overrides))) ∧
  (∀ (pos : KeyPos) (s : State), s.fire.keyCandidate = some pos → s.fire.keyTimer.isSome = true → pos ≠ .auto →
    (∃ x ∈ s.fire.overrides, x.bay = s.bay) ∨ s.fire.overrides.length < 4 →
    completes .fkeyTaken s (fun t => t.Redemands s (State.withOverride
      { s.queueNotice (.override (if pos = .open then .open else .close)) with
        fire.keyTaken := pos, fire.keyCandidate := none, fire.keyTimer := none, sched.overrideRepeat := some 5000
        fire.overrides := if s.fire.overrides.any (fun x => x.bay == s.bay) then
            s.fire.overrides.map (fun x => if x.bay = s.bay then ⟨s.bay, decide (pos = .open), none⟩ else x)
          else s.fire.overrides ++ [⟨s.bay, decide (pos = .open), none⟩] } s.fire.overrides))) ∧
  (∀ (pos : KeyPos) (x : OverrideOrigin) (s : State), s.fire.keyCandidate = some pos → s.fire.keyTimer.isSome = true → pos ≠ .auto →
    (∀ y ∈ s.fire.overrides, y.bay ≠ s.bay) → s.fire.overrides.length = 4 → x ∈ s.fire.overrides →
    (∀ y ∈ s.fire.overrides, y = x ∨ y.age.getD 0 < x.age.getD 0 ∨ (y.age.getD 0 = x.age.getD 0 ∧ y.bay < x.bay)) →
    completes .fkeyTaken s (fun t => t.Redemands s (State.withOverride
      { s.queueNotice (.override (if pos = .open then .open else .close)) with
        fire.keyTaken := pos, fire.keyCandidate := none, fire.keyTimer := none, sched.overrideRepeat := some 5000
        fire.overrides := s.fire.overrides.filter (fun y => y.bay != x.bay) ++ [⟨s.bay, decide (pos = .open), none⟩] }
      s.fire.overrides)))

/-! ## Demands -/

/-- A change of the winner on a channel at rest (R90, R92, R93, R94, R98, R99, R104, R107): the winner is the highest source present, none under
the supply veto, and the channel alone changes: an ORDINARY movement where the target calls for one, a REFERENCE where one is due or the
channel is UNREFERENCED, and the channel then waits; otherwise it stays at rest.
That a target for an unknown stroke is taken to an end before it is compared is log entry 17, that nothing is posted before presence detection
ends 10, and that a captured 1000 or 0 on an UNREFERENCED channel is taken by its value 60. -/
def Obligations.PostingAtRest : Prop :=
  (∀ (s : State) (c : Chan), s.supplyVeto = false →
    s.winner c = (match (s.chan c).src.override, (s.chan c).src.fire, (s.chan c).src.weather, (s.chan c).lim.veto,
        (s.chan c).src.localKey, (s.chan c).src.ventilate, (s.chan c).drv.jog with
      | some t, _, _, _, _, _, _ => some (.override, endTarget (s.strokeKnown c) (.pos t))
      | none, some d, _, _, _, _, _ => some (.fire, endTarget (s.strokeKnown c) d)
      | none, none, true, _, _, _, _ => some (.weather, .pos 0)
      | none, none, false, true, _, _, _ => none
      | none, none, false, false, some t, _, _ => some (.localKey, endTarget (s.strokeKnown c) (.pos t))
      | none, none, false, false, none, some t, _ => some (.ventilate, endTarget (s.strokeKnown c) (.pos t))
      | none, none, false, false, none, none, some j => some (.jog, .pos (if j.dir = .opening then 1000 else 0))
      | none, none, false, false, none, none, none => none)) ∧
  (∀ (s : State) (c : Chan), s.supplyVeto = true → s.winner c = none) ∧
  (∀ (src : Source) (t : Nat) (s : State) (c : Chan), s.detected = true → (s.chan c).state = .idle →
    s.winner c ≠ (s.chan c).dem.win → s.winner c = some (src, .pos t) →
    (s.chan c).dem.refDue = false ∨ src ∈ [Source.override, .fire, .weather] ∨ (s.chan c).lim.veto = true →
    s.recompute c = s.setChan c (if (s.strokeKnown c = true ∧ (t + 20 ≤ s.position c ∨ s.position c + 20 ≤ t)) ∨
          (t = 0 ∧ (s.chan c).drv.restEnd ≠ some .closedEnd) ∨ (t = 1000 ∧ (s.chan c).drv.restEnd ≠ some .openEnd) then
        { s.chan c with
          state := .waiting, dem.win := s.winner c, dem.movement := some ⟨.ordinary, t, some src⟩, dem.pending := none }
      else { s.chan c with dem.win := s.winner c })) ∧
  (∀ (s : State) (c : Chan), s.detected = true → (s.chan c).state = .idle ∨ (s.chan c).state = .unreferenced →
    s.winner c ≠ (s.chan c).dem.win → (s.winner c = none ∧ (s.chan c).dem.refDue = false) ∨ s.winner c = some (.fire, .hold) →
    s.recompute c = s.setChan c { s.chan c with dem.win := s.winner c }) ∧
  (∀ (s : State) (c : Chan), s.detected = true → (s.chan c).state = .idle → s.winner c ≠ (s.chan c).dem.win →
    (s.chan c).dem.refDue = true → (s.chan c).lim.veto = false → s.supplyVeto = false →
    (∀ w ∈ s.winner c, w.1 = .localKey ∨ w.1 = .ventilate ∨ w.1 = .jog) →
    s.recompute c = s.setChan c { s.chan c with
      state := .waiting, dem.win := s.winner c, dem.movement := some ⟨.reference, 0, (s.winner c).map Prod.fst⟩
      dem.pending := (s.winner c).map Prod.snd }) ∧
  (∀ (src : Source) (t : Nat) (s : State) (c : Chan), s.detected = true → (s.chan c).state = .unreferenced →
    s.winner c ≠ (s.chan c).dem.win → s.winner c = some (src, .pos t) →
    s.recompute c = s.setChan c
      (if t = 0 then { s.chan c with
          state := .waiting, dem.win := s.winner c, dem.pending := none
          dem.movement := some ⟨if (s.chan c).lim.veto = true ∧ src ∈ [Source.override, .fire, .weather] then .ordinary
            else .reference, 0, some src⟩ }
        else if src = .override ∨ src = .fire then
          (if t = 1000 ∧ (s.chan c).drv.restEnd ≠ some .openEnd then { s.chan c with
            state := .waiting, dem.win := s.winner c, dem.movement := some ⟨.ordinary, 1000, some src⟩, dem.pending := none }
          else { s.chan c with dem.win := s.winner c })
        else { s.chan c with
          state := .waiting, dem.win := s.winner c, dem.movement := some ⟨.reference, 0, some src⟩
          dem.pending := some (.pos t) })) ∧
  (∀ (s : State) (c : Chan), (s.chan c).state = .absent ∨ s.winner c = (s.chan c).dem.win → s.recompute c = s) ∧
  (∀ (s : State) (c : Chan), (s.chan c).state ≠ .absent → s.detected = false →
    s.recompute c = s.setChan c { s.chan c with dem.win := s.winner c })

/-- A change of the winner on a channel that waits, moves, pauses or has faulted (R99 to R102, R104, R105, R107, R141 to R143, R156): a waiting
movement takes the new target or is withdrawn from its claim, a waiting reference takes it as pending, and FIRE or OVERRIDE replaces it; a
target ahead is taken in flight, one within the deadband completes, one behind reverses, a hold or none stops; a reference run goes on, or is
aborted for FIRE or OVERRIDE and the target taken as after a closing drive; a FAULTED channel takes a position as at rest.
That a target for an unknown stroke or an unreferenced opening has no deadband is log entry 17, that an abort rests for
a target that is not ahead and within 20 is 18, that a waiting ordinary movement of an unreferenced channel keeps its target under a new source
30, that an unreferenced channel at the open end withdraws its waiting reference for FIRE or OVERRIDE 1000 is 49, that a run formed for
FIRE or OVERRIDE goes on for their target 0 after a lower winner too is 58, and that a captured 1000 or 0 on an UNREFERENCED channel is taken
by its value 60. -/
def Obligations.PostingDriven : Prop :=
  (∀ (src : Source) (t : Nat) (m : Movement) (s : State) (c : Chan), s.detected = true → (s.chan c).state = .waiting →
    (s.chan c).drv.referenced = true → (s.chan c).dem.movement = some m →
    m.kind = .ordinary ∨ src = .override ∨ src = .fire →
    s.winner c ≠ (s.chan c).dem.win → s.winner c = some (src, .pos t) → s.callsMovement c t = true →
    s.recompute c = s.setChan c { s.chan c with
      dem.win := s.winner c, dem.movement := some ⟨.ordinary, t, some src⟩, dem.pending := none }) ∧
  (∀ (m : Movement) (s : State) (c : Chan), s.detected = true → (s.chan c).state = .waiting →
    (s.chan c).drv.referenced = true → (s.chan c).dem.movement = some m →
    (m.kind = .ordinary ∧ (s.chan c).dem.refDue = false) ∨ (∃ w ∈ s.winner c, w.1 = .override ∨ w.1 = .fire) →
    s.winner c ≠ (s.chan c).dem.win → (∀ w ∈ s.winner c, ∀ t ≤ 1000, w.2 = .pos t → s.callsMovement c t = false) →
    (∀ w ∈ s.winner c, w.2.wf = true) →
    s.recompute c = (s.setChan c { s.chan c with
      state := .idle, dem.win := s.winner c, dem.movement := none, dem.pending := none }).leaveClaim c) ∧
  (∀ (m : Movement) (s : State) (c : Chan), s.detected = true → (s.chan c).state = .waiting →
    (s.chan c).drv.referenced = true → (s.chan c).dem.movement = some m → m.kind = .reference →
    s.winner c ≠ (s.chan c).dem.win → (∀ w ∈ s.winner c, w.1 ≠ .override ∧ w.1 ≠ .fire) →
    s.recompute c = s.setChan c { s.chan c with
      dem.win := s.winner c, dem.movement := some { m with formedFor := (s.winner c).map Prod.fst }
      dem.pending := (s.winner c).map Prod.snd }) ∧
  (∀ (src : Source) (t : Nat) (m : Movement) (s : State) (c : Chan), s.detected = true → (s.chan c).state = .waiting →
    (s.chan c).drv.referenced = false → (s.chan c).dem.movement = some m → s.winner c ≠ (s.chan c).dem.win →
    s.winner c = some (src, .pos t) →
    s.recompute c =
      if m.kind = .ordinary ∧ t = m.target then
        s.setChan c { s.chan c with dem.win := s.winner c, dem.movement := some { m with formedFor := some src } }
      else if t = 0 then
        s.setChan c (if (s.chan c).lim.veto = true ∧ src ∈ [Source.override, .fire, .weather] then { s.chan c with
            dem.win := s.winner c, dem.movement := some ⟨.ordinary, 0, some src⟩, dem.pending := none }
          else { s.chan c with
            dem.win := s.winner c, dem.movement := some ⟨.reference, 0, some src⟩
            dem.pending := if m.kind = .reference then (s.chan c).dem.pending else none })
      else if src ≠ .override ∧ src ≠ .fire then
        s.setChan c { s.chan c with
          dem.win := s.winner c, dem.movement := some ⟨.reference, 0, some src⟩, dem.pending := some (.pos t) }
      else if t = 1000 ∧ (s.chan c).drv.restEnd ≠ some .openEnd then
        s.setChan c { s.chan c with
          dem.win := s.winner c, dem.movement := some ⟨.ordinary, 1000, some src⟩, dem.pending := none }
      else (s.setChan c { s.chan c with
        state := .unreferenced, dem.win := s.winner c, dem.movement := none, dem.pending := none }).leaveClaim c) ∧
  (∀ (s : State) (c : Chan), s.detected = true → (s.chan c).state = .waiting → (s.chan c).drv.referenced = false →
    (s.chan c).dem.movement.isSome = true → s.winner c ≠ (s.chan c).dem.win →
    s.winner c = none ∨ s.winner c = some (.fire, .hold) →
    s.recompute c = (s.setChan c { s.chan c with
      state := .unreferenced, dem.win := s.winner c, dem.movement := none, dem.pending := none }).leaveClaim c) ∧
  (∀ (src : Source) (t : Nat) (s : State) (c : Chan), s.detected = true → (s.chan c).state = .running →
    s.winner c ≠ (s.chan c).dem.win → s.winner c = some (src, .pos t) →
    ((s.chan c).drv.dir = some .opening ∧
        (t = 1000 ∨ ((s.chan c).drv.referenced = true ∧ (s.chan c).drv.count < (t * s.stroke c + 999) / 1000))) ∨
      ((s.chan c).drv.dir = some .closing ∧ (t = 0 ∨ t * s.stroke c / 1000 < (s.chan c).drv.count)) →
    s.recompute c = s.setChan c { s.chan c with
      dem.win := s.winner c, dem.movement := some ⟨.ordinary, t, some src⟩ }) ∧
  (∀ (src : Source) (t : Nat) (s : State) (c : Chan), s.detected = true → (s.chan c).state = .running →
    s.winner c ≠ (s.chan c).dem.win → s.winner c = some (src, .pos t) →
    ((s.chan c).drv.dir = some .opening ∧ t ≠ 1000 ∧
        ((s.chan c).drv.referenced = true → (t * s.stroke c + 999) / 1000 ≤ (s.chan c).drv.count)) ∨
      ((s.chan c).drv.dir = some .closing ∧ t ≠ 0 ∧ (s.chan c).drv.count ≤ t * s.stroke c / 1000) →
    ((s.chan c).drv.referenced = false ∧ (s.chan c).drv.dir = some .opening) ∨ s.strokeKnown c = false ∨
      t + 20 ≤ s.position c ∨ s.position c + 20 ≤ t →
    (s.recompute c) = s.setChan c { (s.chan c).release with
      state := .reversing, dem.win := s.winner c, dem.movement := none, dem.pending := some (.pos t)
      drv.reversalTimer := some 500 }) ∧
  (∀ (src : Source) (t : Nat) (s : State) (c : Chan), s.detected = true → (s.chan c).state = .running →
    s.winner c ≠ (s.chan c).dem.win → s.winner c = some (src, .pos t) → (s.chan c).drv.referenced = true → s.strokeKnown c = true →
    ((s.chan c).drv.dir = some .opening ∧ t ≠ 1000 ∧ (t * s.stroke c + 999) / 1000 ≤ (s.chan c).drv.count) ∨
      ((s.chan c).drv.dir = some .closing ∧ t ≠ 0 ∧ (s.chan c).drv.count ≤ t * s.stroke c / 1000) →
    s.position c < t + 20 → t < s.position c + 20 → (s.chan c).drv.jog = none → (s.chan c).dem.refDue = false →
    (s.chan c).dem.moveCount ≠ 199 →
    s.recompute c = { s.setChan c { (s.chan c).release with
      state := .idle, dem.win := s.winner c, dem.movement := none, dem.pending := none
      dem.moveCount := min 65535 ((s.chan c).dem.moveCount + 1)
      drv.restEnd := if (s.chan c).drv.count = s.stroke c then some .openEnd else none
      drv.retryCount := 0, drv.retryTimer := none, drv.retryHeld := false } with
      sup.faults := s.sup.faults.filter (fun a => decide (a < channelCode c 0 ∨ channelCode c 4 < a)) }) ∧
  (∀ (s : State) (c : Chan), s.detected = true → (s.chan c).state = .running →
    s.winner c ≠ (s.chan c).dem.win → s.winner c = none ∨ s.winner c = some (.fire, .hold) → (s.chan c).dem.refDue = false →
    s.recompute c = s.setChan c { (s.chan c).release with
      state := if (s.chan c).drv.referenced then .idle else .unreferenced, dem.win := s.winner c
      dem.movement := none, dem.pending := none }) ∧
  (∀ (s : State) (c : Chan), s.detected = true → (s.chan c).state = .reversing ∨
      ((s.chan c).state = .referencing ∧ (∀ w ∈ s.winner c, w.1 ≠ .override ∧ w.1 ≠ .fire)) →
    s.winner c ≠ (s.chan c).dem.win →
    s.recompute c = s.setChan c { s.chan c with dem.win := s.winner c, dem.pending := (s.winner c).map Prod.snd }) ∧
  (∀ (src source : Source) (m : Movement) (s : State) (c : Chan), s.detected = true → (s.chan c).state = .referencing →
    (s.chan c).dem.movement = some m → m.formedFor = some source → source = .override ∨ source = .fire →
    s.winner c ≠ (s.chan c).dem.win → s.winner c = some (src, .pos 0) → src = .override ∨ src = .fire →
    s.recompute c = s.setChan c { s.chan c with dem.win := s.winner c }) ∧
  (∀ (src : Source) (t : Nat) (s : State) (c : Chan), s.detected = true → (s.chan c).state = .referencing →
    s.winner c ≠ (s.chan c).dem.win → s.winner c = some (src, .pos t) → src = .override ∨ src = .fire →
    ((s.chan c).drv.referenced = true ∧ s.strokeKnown c = true ∧ s.position c + 20 ≤ t) ∨
      ((s.chan c).drv.referenced = true ∧ s.strokeKnown c = false ∧ t ≠ 0) ∨
      ((s.chan c).drv.referenced = false ∧ t = 1000) →
    s.recompute c = s.setChan c { (s.chan c).release with
      state := .reversing, dem.win := s.winner c, dem.movement := none, dem.pending := some (.pos t)
      drv.reversalTimer := some 500 }) ∧
  (∀ (src : Source) (t : Nat) (s : State) (c : Chan), s.detected = true → (s.chan c).state = .referencing →
    s.winner c ≠ (s.chan c).dem.win → s.winner c = some (src, .pos t) → src = .override ∨ src = .fire →
    t ≠ 0 ∨ (∀ m ∈ (s.chan c).dem.movement, ∀ x ∈ m.formedFor, x ≠ .override ∧ x ≠ .fire) →
    ((s.chan c).drv.referenced = true ∧ s.strokeKnown c = true ∧ t ≤ s.position c ∧
        t * s.stroke c / 1000 < (s.chan c).drv.count) ∨
      t = 0 ∨ ((s.chan c).drv.referenced = false ∧ t ≠ 1000) →
    s.recompute c = (s.setChan c { (s.chan c).release with
      state := if (s.chan c).drv.referenced then .idle else .unreferenced, dem.movement := none, dem.pending := none }).recompute c) ∧
  (∀ (src : Source) (p : Target) (s : State) (c : Chan), s.detected = true → (s.chan c).state = .referencing →
    s.winner c ≠ (s.chan c).dem.win → s.winner c = some (src, p) → src = .override ∨ src = .fire →
    p = .hold ∨ ((s.chan c).drv.referenced = true ∧ s.strokeKnown c = true ∧
      ∃ t ≤ 1000, p = .pos t ∧ t ≠ 0 ∧ t < s.position c + 20 ∧ (s.chan c).drv.count ≤ t * s.stroke c / 1000) →
    s.recompute c = s.setChan c { (s.chan c).release with
      state := if (s.chan c).drv.referenced then .idle else .unreferenced, dem.win := s.winner c
      dem.movement := none, dem.pending := none }) ∧
  (∀ (s : State) (c : Chan), s.detected = true → (s.chan c).state = .faulted → s.winner c ≠ (s.chan c).dem.win →
    s.winner c = none ∨ s.winner c = some (.fire, .hold) →
    s.recompute c = s.setChan c { s.chan c with dem.win := s.winner c, drv.retryTimer := none, drv.retryHeld := false }) ∧
  (∀ (src : Source) (t : Nat) (s : State) (c : Chan), s.detected = true → (s.chan c).state = .faulted →
    s.winner c ≠ (s.chan c).dem.win → s.winner c = some (src, .pos t) →
    s.recompute c = (s.setChan c { s.chan c with
      state := if (s.chan c).drv.referenced then .idle else .unreferenced, dem.movement := none, dem.pending := none
      drv.retryCount := 0, drv.retryTimer := none, drv.retryHeld := false }).recompute c) ∧
  (∀ (k : Channel), k.release = { k with
    drv.dir := none, drv.coast := some 500, drv.inrushMask := none, drv.stallTimer := none, drv.overcurrentTimer := none
    drv.openLoadTimer := none, drv.noPulseTimer := none, drv.reportTimer := none, drv.current := none })

/-! ## The start budget -/

/-- The claim formed from the channels that wait (R114, R115): with FIRE or OVERRIDE winning on one of them those come first and the allowance
is A_fire, else channel order and A_start; the first candidate is taken, each other where its inrush rating still fits; and where starts
are made by claims and none is live it is formed at once, with its CLAIM queued. A channel that leaves WAITING leaves the live claim; with its
last channel the claim is dropped, and its CLAIM, where it waits and is not in flight, is withdrawn (R24, R123). That the content of a claim
dropped while the CLAIM of an earlier content is in flight stays queued is log entry 52, the model's choice. -/
def Obligations.ClaimSelection : Prop :=
  (∀ (order : List Chan) (allowance : Nat) (s : State),
    order = Quad.all.filter s.waitsHigh ++
      Quad.all.filter (fun c => decide ((s.chan c).state = .waiting) && !s.waitsHigh c) →
    allowance = (if Quad.all.any s.waitsHigh then s.fields.aFire else s.fields.aStart) →
    s.selectClaim.state = .queued ∧ s.selectClaim.fire = Quad.all.any s.waitsHigh ∧
    (∀ c, s.selectClaim.channels.get c = true → (s.chan c).state = .waiting) ∧
    (∀ c, s.waitsHigh c = true ↔ (s.chan c).state = .waiting ∧
      ((s.chan c).dem.win.map Prod.fst = some .override ∨ (s.chan c).dem.win.map Prod.fst = some .fire)) ∧
    s.selectClaim.inrush = ((Quad.all.filter s.selectClaim.channels.get).map (fun c => (s.chFields c).inrush)).sum ∧
    (∀ k ∈ List.range 4, ∀ c ∈ order[k]?, s.selectClaim.channels.get c = true ↔
      k = 0 ∨ (((order.take k).filter s.selectClaim.channels.get).map (fun d => (s.chFields d).inrush)).sum +
        (s.chFields c).inrush ≤ allowance)) ∧
  (∀ (s : State), s.sup.mode = .normal ∨ (s.sup.mode = .service ∧ s.line.isolation = false) → s.supplyVeto = false →
    (∃ c, (s.chan c).state = .waiting) → s.bud.own.state = .none →
    s.formationTest = { s.queueNotice (.claim s.selectClaim.channels s.selectClaim.inrush s.selectClaim.fire) with
      bud.own := s.selectClaim, bud.settleTimer := none }) ∧
  (∀ (s : State), s.sup.mode = .starting ∨ s.sup.mode = .isolated ∨ (s.sup.mode = .service ∧ s.line.isolation = true) ∨
      s.supplyVeto = true ∨ (∀ c, (s.chan c).state ≠ .waiting) ∨ s.bud.own.state ≠ .none →
    s.formationTest = s) ∧
  (∀ (s : State), s.bud.own.state ≠ .none →
    s.dropClaim = { s with
      bud.own := OwnClaim.none, bud.settleTimer := none
      line.queue := if s.bud.own.state = .queued ∧ (∀ f ∈ s.line.flight, f.content.kind ≠ .claim) then
        s.line.queue.filter (fun e => decide (e.notice.kind ≠ .claim)) else s.line.queue }) ∧
  (∀ (c : Chan) (s : State), s.bud.own.state ≠ .none → s.bud.own.channels.get c = true →
    s.leaveClaim c =
      if s.bud.own.channels.set c false = Four.all false then s.dropClaim
      else { s with bud.own.channels := s.bud.own.channels.set c false }) ∧
  (∀ (c : Chan) (s : State), s.bud.own.state = .none ∨ s.bud.own.channels.get c = false → s.leaveClaim c = s)

/-- The decision (R117 to R122): a non-fire claim is granted where no fire item stands, the items ahead and the own item fit A_start and the
running current and the claim's ratings fit A_run; a fire claim where the fire items ahead and the own item fit A_fire; else it is deferred,
and the age-out of an item that stood ahead or was fire-flagged decides it again, and no other's does. The grant starts the claim's
channels that still wait and ends the claim, and where R114 allows one the next is formed at once of the channels that then wait, its
CLAIM queued. An item that arrived at the same instant does not age out (log entry 3). -/
def Obligations.ClaimDecided : Prop :=
  (∀ (own : StartItem) (s : State), s.bud.own.state = .settling → s.bud.settleTimer.isSome = true → s.bud.isoOpen = false →
    own ∈ s.bud.items → own.bay = s.bay → distinctBy (·.bay) s.bud.items = true → s.bud.own.fire = false →
    (∀ i ∈ s.bud.items, i.fire = false) →
    ((s.bud.items.takeWhile (fun i => i.bay != s.bay)).map (·.inrush)).sum + own.inrush ≤ s.fields.aStart →
    s.reckoned + ((Quad.all.filter s.bud.own.channels.get).map (fun c => (s.chFields c).run)).sum ≤ s.fields.aRun →
    completes .settleExpiry s (fun t => t.ClaimGranted s)) ∧
  (∀ (own : StartItem) (s : State), s.bud.own.state = .settling → s.bud.settleTimer.isSome = true → s.bud.isoOpen = false →
    own ∈ s.bud.items → own.bay = s.bay → distinctBy (·.bay) s.bud.items = true → s.bud.own.fire = true →
    (((s.bud.items.takeWhile (fun i => i.bay != s.bay)).filter (·.fire)).map (·.inrush)).sum + own.inrush ≤ s.fields.aFire →
    completes .settleExpiry s (fun t => t.ClaimGranted s)) ∧
  (∀ (own : StartItem) (s : State), s.bud.own.state = .settling → s.bud.settleTimer.isSome = true →
    own ∈ s.bud.items → own.bay = s.bay → distinctBy (·.bay) s.bud.items = true → s.bud.own.fire = false →
    (∀ c, s.waitsHigh c = false) →
    (∃ i ∈ s.bud.items, i.fire = true) ∨
      s.fields.aStart < ((s.bud.items.takeWhile (fun i => i.bay != s.bay)).map (·.inrush)).sum + own.inrush ∨
      s.fields.aRun < s.reckoned + ((Quad.all.filter s.bud.own.channels.get).map (fun c => (s.chFields c).run)).sum →
    completes .settleExpiry s (fun t =>
      t.Follows { s with bud.own := { s.bud.own with state := .deferred }, bud.settleTimer := none } ∧
      t.bud.own = { s.bud.own with state := .deferred })) ∧
  (∀ (own : StartItem) (s : State), s.bud.own.state = .settling → s.bud.settleTimer.isSome = true →
    own ∈ s.bud.items → own.bay = s.bay → distinctBy (·.bay) s.bud.items = true → s.bud.own.fire = true →
    s.fields.aFire < (((s.bud.items.takeWhile (fun i => i.bay != s.bay)).filter (·.fire)).map (·.inrush)).sum + own.inrush →
    completes .settleExpiry s (fun t =>
      t.Follows { s with bud.own := { s.bud.own with state := .deferred }, bud.settleTimer := none } ∧
      t.bud.own = { s.bud.own with state := .deferred })) ∧
  (∀ (bay : Nat) (s : State), (∃ i ∈ s.bud.items, i.bay = bay ∧ i.age ≠ 0) → bay ≠ s.bay → s.bud.own.state ≠ .deferred →
    completes (.itemAgeOut bay) s (fun t => t.Follows { s with bud.items := s.bud.items.filter (fun i => i.bay != bay) })) ∧
  (∀ (i own : StartItem) (u s : State), s.bud.own.state = .deferred → s.bud.isoOpen = false → s.notSuperseded → i ∈ s.bud.items →
    i.age ≠ 0 → i.bay ≠ s.bay → s.ownItem own → u = { s with bud.items := s.bud.items.filter (fun x => x.bay != i.bay) } →
    completes (.itemAgeOut i.bay) s (fun t =>
      (i.fire = true ∨ i ∈ s.bud.items.takeWhile (fun x => x.bay != s.bay) → t.Rechecks u u own) ∧
      (i.fire = false → i ∉ s.bud.items.takeWhile (fun x => x.bay != s.bay) →
        t.Follows u ∧ t.bud = u.bud ∧ ∀ c, t.chan c = s.chan c))) ∧
  (∀ (own : StartItem) (s : State), s.bud.own.state = .settling ∨ s.bud.own.state = .deferred → own ∈ s.bud.items → own.bay = s.bay →
    own.age ≠ 0 → s.bud.isoOpen = false → s.sup.mode = .normal → s.supplyVeto = false → (∃ c, (s.chan c).state = .waiting) →
    completes (.itemAgeOut s.bay) s (fun t =>
      t.Follows { s with
        bud.items := s.bud.items.filter (fun i => i.bay != s.bay), bud.own := OwnClaim.none, bud.settleTimer := none } ∧
      t.bud.own = s.selectClaim)) ∧
  (∀ (bay : Nat) (s : State), (∀ i ∈ s.bud.items, i.bay = bay → i.age = 0) →
    completes (.itemAgeOut bay) s (fun t => t = s))

/-- The isolated starts and what a start does (R127, R130): at a slot the lowest-numbered waiting channel with FIRE or OVERRIDE winning is
started, else the lowest-numbered one, and the next slot comes 2000 ms later; with no channel waiting, or under the supply veto, the slot
stays open. A start fixes the direction by the count and the stop points, and begins the mask and the overcurrent test; a movement with no
direction to drive in is complete at its start. That such a start leaves the direction last driven as it was is log entry 39. -/
def Obligations.IsolatedStarts : Prop :=
  (∀ (c : Chan) (s : State), s.bud.isoTimer.isSome = true → s.supplyVeto = false → (s.chan c).state = .waiting →
    (s.waitsHigh c = true ∧ ∀ d, d.number < c.number → s.waitsHigh d = false) ∨
      ((∀ d, s.waitsHigh d = false) ∧ ∀ d, d.number < c.number → (s.chan d).state ≠ .waiting) →
    s.bud.own.state = .none →
    completes .isolatedStart s (fun t => t.Grants s ((Four.all false).set c true) ∧
      t.bud.isoTimer = some 2000 ∧ t.bud.isoOpen = false ∧ t.bud.lastIso = some 0)) ∧
  (∀ (s : State), s.bud.isoTimer.isSome = true → s.supplyVeto = true ∨ (∀ c, (s.chan c).state ≠ .waiting) →
    s.bud.own.state = .none →
    completes .isolatedStart s (fun t => t.Follows { s with bud.isoTimer := none, bud.isoOpen := true } ∧
      t.ch = s.ch ∧ t.bud.isoTimer = none ∧ t.bud.isoOpen = true)) ∧
  (∀ (k : Channel) (stroke : Nat) (m : Movement),
    k.startDir stroke m =
      if m.kind = .reference ∨ m.target = 0 then some .closing
      else if m.target = 1000 then some .opening
      else if k.drv.count < m.target * stroke / 1000 then some .opening
      else if (m.target * stroke + 999) / 1000 < k.drv.count then some .closing
      else none) ∧
  (∀ (c : Chan) (s : State), (s.chan c).state ≠ .waiting → s.startChan c = s) ∧
  (∀ (c : Chan) (m : Movement) (d : Dir) (s : State), (s.chan c).state = .waiting → (s.chan c).dem.movement = some m →
    (s.chan c).startDir (s.stroke c) m = some d →
    s.startChan c = s.setChan c ((s.chan c).started m (some d) (s.chFields c).run)) ∧
  (∀ (c : Chan) (m : Movement) (started jog : Option Jog) (w : Winner) (s : State), (s.chan c).state = .waiting →
    (s.chan c).dem.movement = some m → (s.chan c).startDir (s.stroke c) m = none → s.winner c = (s.chan c).dem.win →
    started = (s.chan c).drv.jog.map (fun j => { j with timer := some (j.timer.getD j.time) }) →
    jog = (if (s.chan c).drv.count = s.stroke c then started.filter (fun j => j.dir != .opening) else started) →
    w = State.winner (s.setChan c { s.chan c with drv.jog := jog }) c →
    (s.chan c).dem.refDue = false → (s.chan c).dem.moveCount ≠ 199 →
    s.startChan c = { s.setChan c { (s.chan c).release with
      state := if (s.chan c).drv.referenced then .idle else .unreferenced
      dem.movement := none, dem.pending := none
      dem.moveCount := if (s.chan c).drv.referenced then min 65535 ((s.chan c).dem.moveCount + 1) else (s.chan c).dem.moveCount
      dem.win := w, drv.jog := jog, drv.restEnd := if (s.chan c).drv.count = s.stroke c then some .openEnd else none
      drv.retryCount := 0, drv.retryTimer := none, drv.retryHeld := false } with
      sup.faults := s.sup.faults.filter (fun a => decide (a < channelCode c 0 ∨ channelCode c 4 < a)) }) ∧
  (∀ (k : Channel) (m : Movement) (d : Dir) (run : Nat),
    k.started m (some d) run = { k with
      state := if m.kind = .reference then .referencing else .running
      drv.dir := some d, drv.lastDir := some d, drv.restEnd := none, drv.coast := none, drv.inrushMask := some 300
      drv.overcurrentTimer := some 20, drv.current := some run
      drv.jog := k.drv.jog.map (fun j => { j with timer := some (j.timer.getD j.time) }) })

/-! ## Channel drive -/

/-- A hall pulse moves the count by one in the direction driven, or, in the coast window, last driven, within 0 to the stroke, and restarts the
no-pulse timer (R131, R138); at the stop point, and at S of a run to 1000 on a referenced channel of known stroke, a RUNNING movement is
complete, and a jog toward the end so reached ends (R132, R133, R146), and the 200th completed movement makes a reference due, which starts on the channel at rest with no higher source
and no veto (R103, R104); the coast window closes; the mask ends and the
tests and reports begin; a report becomes the reported current (R134). -/
def Obligations.PulsesAndTimers : Prop :=
  (∀ (c : Chan) (dir : Option Dir) (s : State),
    dir = (if (s.chan c).driven then (s.chan c).drv.dir else if (s.chan c).drv.coast.isSome then (s.chan c).drv.lastDir else none) →
    dir = none ∨ (dir = some .opening ∧ s.stroke c ≤ (s.chan c).drv.count) ∨ (dir = some .closing ∧ (s.chan c).drv.count = 0) →
    completes (.hallPulse c) s (fun t => t = s.setChan c { s.chan c with
      drv.noPulseTimer := (s.chan c).drv.noPulseTimer.map (fun _ => 500) })) ∧
  (∀ (c : Chan) (dir : Dir) (n : Nat) (s : State),
    (if (s.chan c).driven then (s.chan c).drv.dir else if (s.chan c).drv.coast.isSome then (s.chan c).drv.lastDir else none) =
      some dir →
    (dir = .opening ∧ (s.chan c).drv.count < s.stroke c ∧ n = (s.chan c).drv.count + 1) ∨
      (dir = .closing ∧ n + 1 = (s.chan c).drv.count) →
    (s.chan c).state ≠ .running ∨
      (∀ m ∈ (s.chan c).dem.movement, (dir = .opening → m.target < 1000 → n < (m.target * s.stroke c + 999) / 1000) ∧
        (dir = .opening → 1000 ≤ m.target → (s.chan c).drv.referenced = false ∨ s.strokeKnown c = false ∨ n < s.stroke c) ∧
        (dir = .closing → 0 < m.target → m.target * s.stroke c / 1000 < n)) →
    completes (.hallPulse c) s (fun t => t.Follows (s.setChan c { s.chan c with
      drv.count := n, drv.noPulseTimer := (s.chan c).drv.noPulseTimer.map (fun _ => 500) }))) ∧
  (∀ (c : Chan) (dir : Dir) (n : Nat) (m : Movement) (jog : Option Jog) (w : Winner) (s : State), (s.chan c).state = .running →
    (s.chan c).drv.dir = some dir → (s.chan c).dem.movement = some m → m.target < 1000 → 0 < m.target →
    (dir = .opening ∧ (s.chan c).drv.count < s.stroke c ∧ n = (s.chan c).drv.count + 1 ∧ (m.target * s.stroke c + 999) / 1000 ≤ n) ∨
      (dir = .closing ∧ n + 1 = (s.chan c).drv.count ∧ n ≤ m.target * s.stroke c / 1000) →
    jog = (if n = s.stroke c then (s.chan c).drv.jog.filter (fun j => j.dir != .opening) else (s.chan c).drv.jog) →
    w = State.winner (s.setChan c { s.chan c with drv.jog := jog }) c →
    s.winner c = (s.chan c).dem.win → (s.chan c).dem.refDue = false → (s.chan c).dem.moveCount ≠ 199 →
    completes (.hallPulse c) s (fun t => t.Follows { s.setChan c { (s.chan c).release with
      state := if (s.chan c).drv.referenced then .idle else .unreferenced
      dem.movement := none, dem.pending := none
      dem.moveCount := if (s.chan c).drv.referenced then min 65535 ((s.chan c).dem.moveCount + 1) else (s.chan c).dem.moveCount
      dem.win := w, drv.jog := jog, drv.count := n, drv.restEnd := if n = s.stroke c then some .openEnd else none
      drv.retryCount := 0, drv.retryTimer := none, drv.retryHeld := false } with
      sup.faults := s.sup.faults.filter (fun a => decide (a < channelCode c 0 ∨ channelCode c 4 < a)) })) ∧
  (∀ (c : Chan) (m : Movement) (jog : Option Jog) (w : Winner) (s : State), (s.chan c).state = .running → (s.chan c).drv.dir = some .opening →
    (s.chan c).dem.movement = some m → m.target = 1000 → (s.chan c).drv.referenced = true → s.strokeKnown c = true →
    (s.chan c).drv.count + 1 = s.stroke c →
    jog = (s.chan c).drv.jog.filter (fun j => j.dir != .opening) → w = State.winner (s.setChan c { s.chan c with drv.jog := jog }) c →
    s.winner c = (s.chan c).dem.win → (s.chan c).dem.refDue = false → (s.chan c).dem.moveCount ≠ 199 →
    completes (.hallPulse c) s (fun t => t.Follows { s.setChan c { (s.chan c).release with
      state := .idle, dem.movement := none, dem.pending := none
      dem.moveCount := min 65535 ((s.chan c).dem.moveCount + 1)
      dem.win := w, drv.jog := jog, drv.count := s.stroke c, drv.restEnd := some .openEnd
      drv.retryCount := 0, drv.retryTimer := none, drv.retryHeld := false } with
      sup.faults := s.sup.faults.filter (fun a => decide (a < channelCode c 0 ∨ channelCode c 4 < a)) })) ∧
  (∀ (c : Chan) (dir : Dir) (n : Nat) (m : Movement) (jog : Option Jog) (w : Winner) (k : Channel) (s : State),
    (s.chan c).state = .running →
    (s.chan c).drv.dir = some dir → (s.chan c).dem.movement = some m → m.target < 1000 → 0 < m.target →
    (dir = .opening ∧ (s.chan c).drv.count < s.stroke c ∧ n = (s.chan c).drv.count + 1 ∧ (m.target * s.stroke c + 999) / 1000 ≤ n) ∨
      (dir = .closing ∧ n + 1 = (s.chan c).drv.count ∧ n ≤ m.target * s.stroke c / 1000) →
    jog = (if n = s.stroke c then (s.chan c).drv.jog.filter (fun j => j.dir != .opening) else (s.chan c).drv.jog) →
    w = State.winner (s.setChan c { s.chan c with drv.jog := jog }) c →
    s.winner c = (s.chan c).dem.win → (s.chan c).drv.referenced = true → (s.chan c).dem.moveCount = 199 →
    k = { (s.chan c).release with
      state := .idle, dem.movement := none, dem.pending := none, dem.moveCount := 200, dem.refDue := true
      dem.win := w, drv.jog := jog, drv.count := n, drv.restEnd := if n = s.stroke c then some .openEnd else none
      drv.retryCount := 0, drv.retryTimer := none, drv.retryHeld := false } →
    completes (.hallPulse c) s (fun t => t.Follows { s.setChan c
      (if (s.chan c).lim.veto = false ∧ s.supplyVeto = false ∧
          (∀ x ∈ w, x.1 = .localKey ∨ x.1 = .ventilate ∨ x.1 = .jog) then
        { k with
          state := .waiting, dem.movement := some ⟨.reference, 0, w.map Prod.fst⟩, dem.pending := w.map Prod.snd }
      else k) with
      sup.faults := s.sup.faults.filter (fun a => decide (a < channelCode c 0 ∨ channelCode c 4 < a)) })) ∧
  (∀ (c : Chan) (s : State),
    completes (.coastWindowClose c) s (fun t => t = s.setChan c { s.chan c with drv.coast := none })) ∧
  (∀ (c : Chan) (s : State), (s.chan c).driven = true → (s.chan c).drv.inrushMask.isSome = true →
    completes (.inrushMaskEnd c) s (fun t => t = s.setChan c { s.chan c with
      drv.inrushMask := none, drv.stallTimer := some 200, drv.openLoadTimer := some 200, drv.noPulseTimer := some 500
      drv.reportTimer := some 100 })) ∧
  (∀ (c : Chan) (mean : Nat) (s : State), (s.chan c).driven = true → (s.chan c).drv.reportTimer.isSome = true →
    completes (.currentReport c mean) s (fun t => t.Follows (s.setChan c { s.chan c with
      drv.current := some (min 65535 mean), drv.reportTimer := some 100 })))

/-- A stall (R133, R135, R136, R140): a reference run completes at the closed end, referenced, with the count 0; an ordinary movement within
S/20 of the end it is driven to, unreferenced or of unknown stroke is at that end, complete where the end is its target, and the 200th
completed movement makes a reference due (R103), and otherwise the winning target is taken at once; any other stall is a fault of the
channel. A jog toward the end reached ends, and so does any jog at a fault (R146). -/
def Obligations.StallTaken : Prop :=
  (∀ (c : Chan) (jog : Option Jog) (w : Winner) (s : State), (s.chan c).state = .referencing →
    (s.chan c).drv.stallTimer.isSome = true → jog = (s.chan c).drv.jog.filter (fun j => j.dir != .closing) →
    w = State.winner (s.setChan c { s.chan c with drv.jog := jog }) c → (∀ x ∈ w, x.2 = .pos 0 ∨ x.2 = .hold) →
    completes (.stall c) s (fun t => t.Follows { s.setChan c { (s.chan c).release with
      state := .idle, dem.movement := none, dem.pending := none, dem.moveCount := 0, dem.refTimer := some 604800000
      dem.refDue := false, dem.win := w, drv.referenced := true, drv.count := 0, drv.restEnd := some .closedEnd, drv.jog := jog
      drv.retryCount := 0, drv.retryTimer := none, drv.retryHeld := false } with
      sup.faults := s.sup.faults.filter (fun a => decide (a < channelCode c 0 ∨ channelCode c 4 < a)) })) ∧
  (∀ (c : Chan) (src : Source) (n : Nat) (jog : Option Jog) (w : Winner) (s : State), (s.chan c).state = .referencing →
    (s.chan c).drv.stallTimer.isSome = true → jog = (s.chan c).drv.jog.filter (fun j => j.dir != .closing) →
    w = State.winner (s.setChan c { s.chan c with drv.jog := jog }) c → w = some (src, .pos n) → s.strokeKnown c = true → 20 ≤ n →
    completes (.stall c) s (fun t => t.Follows { s.setChan c { (s.chan c).release with
      state := .waiting, dem.movement := some ⟨.ordinary, n, some src⟩, dem.pending := none, dem.moveCount := 0
      dem.refTimer := some 604800000, dem.refDue := false, dem.win := w, drv.referenced := true, drv.count := 0, drv.jog := jog
      drv.restEnd := some .closedEnd, drv.retryCount := 0, drv.retryTimer := none, drv.retryHeld := false } with
      sup.faults := s.sup.faults.filter (fun a => decide (a < channelCode c 0 ∨ channelCode c 4 < a)) })) ∧
  (∀ (c : Chan) (dir : Dir) (m : Movement) (jog : Option Jog) (w : Winner) (s : State), (s.chan c).state = .running →
    (s.chan c).drv.stallTimer.isSome = true → (s.chan c).drv.dir = some dir → (s.chan c).dem.movement = some m →
    jog = (s.chan c).drv.jog.filter (fun j => j.dir != dir) →
    w = State.winner (s.setChan c { s.chan c with drv.jog := jog }) c →
    s.winner c = (s.chan c).dem.win → (s.chan c).dem.refDue = false → (s.chan c).dem.moveCount ≠ 199 →
    (dir = .opening ∧ m.target = 1000 ∧
        ((s.chan c).drv.referenced = false ∨ s.strokeKnown c = false ∨ s.stroke c - s.stroke c / 20 ≤ (s.chan c).drv.count)) ∨
      (dir = .closing ∧ m.target = 0 ∧
        ((s.chan c).drv.referenced = false ∨ s.strokeKnown c = false ∨ (s.chan c).drv.count ≤ s.stroke c / 20)) →
    completes (.stall c) s (fun t => t.Follows { s.setChan c { (s.chan c).release with
      state := if (s.chan c).drv.referenced then .idle else .unreferenced
      dem.movement := none, dem.pending := none
      dem.moveCount := if (s.chan c).drv.referenced then min 65535 ((s.chan c).dem.moveCount + 1) else (s.chan c).dem.moveCount
      drv.count := if dir = .opening then s.stroke c else 0
      dem.win := w, drv.jog := jog, drv.restEnd := if dir = .opening then some .openEnd else some .closedEnd
      drv.retryCount := 0, drv.retryTimer := none, drv.retryHeld := false } with
      sup.faults := s.sup.faults.filter (fun a => decide (a < channelCode c 0 ∨ channelCode c 4 < a)) })) ∧
  (∀ (c : Chan) (dir : Dir) (m : Movement) (jog : Option Jog) (w : Winner) (k : Channel) (s : State), (s.chan c).state = .running →
    (s.chan c).drv.stallTimer.isSome = true → (s.chan c).drv.dir = some dir → (s.chan c).dem.movement = some m →
    jog = (s.chan c).drv.jog.filter (fun j => j.dir != dir) →
    w = State.winner (s.setChan c { s.chan c with drv.jog := jog }) c →
    s.winner c = (s.chan c).dem.win → (s.chan c).drv.referenced = true → (s.chan c).dem.moveCount = 199 →
    (dir = .opening ∧ m.target = 1000 ∧ (s.strokeKnown c = false ∨ s.stroke c - s.stroke c / 20 ≤ (s.chan c).drv.count)) ∨
      (dir = .closing ∧ m.target = 0 ∧ (s.strokeKnown c = false ∨ (s.chan c).drv.count ≤ s.stroke c / 20)) →
    k = { (s.chan c).release with
      state := .idle, dem.movement := none, dem.pending := none, dem.moveCount := 200, dem.refDue := true
      drv.count := if dir = .opening then s.stroke c else 0
      dem.win := w, drv.jog := jog, drv.restEnd := if dir = .opening then some .openEnd else some .closedEnd
      drv.retryCount := 0, drv.retryTimer := none, drv.retryHeld := false } →
    completes (.stall c) s (fun t => t.Follows { s.setChan c
      (if (s.chan c).lim.veto = false ∧ s.supplyVeto = false ∧
          (∀ x ∈ w, x.1 = .localKey ∨ x.1 = .ventilate ∨ x.1 = .jog) then
        { k with
          state := .waiting, dem.movement := some ⟨.reference, 0, w.map Prod.fst⟩, dem.pending := w.map Prod.snd }
      else k) with
      sup.faults := s.sup.faults.filter (fun a => decide (a < channelCode c 0 ∨ channelCode c 4 < a)) })) ∧
  (∀ (c : Chan) (src : Source) (n : Nat) (m : Movement) (jog : Option Jog) (w : Winner) (s : State), (s.chan c).state = .running →
    (s.chan c).drv.stallTimer.isSome = true → (s.chan c).drv.dir = some .closing → (s.chan c).dem.movement = some m →
    m.target ≠ 0 → jog = (s.chan c).drv.jog.filter (fun j => j.dir != .closing) →
    w = State.winner (s.setChan c { s.chan c with drv.jog := jog }) c → w = some (src, .pos n) →
    (s.chan c).drv.referenced = true → s.strokeKnown c = true → (s.chan c).drv.count ≤ s.stroke c / 20 → 20 ≤ n →
    (s.chan c).dem.refDue = false →
    completes (.stall c) s (fun t => t.Follows (s.setChan c { (s.chan c).release with
      state := .waiting, dem.movement := some ⟨.ordinary, n, some src⟩, dem.pending := none
      dem.win := w, drv.count := 0, drv.restEnd := some .closedEnd, drv.jog := jog }))) ∧
  (∀ (c : Chan) (dir : Dir) (w : Winner) (s : State), (s.chan c).state = .running → (s.chan c).drv.stallTimer.isSome = true →
    (s.chan c).drv.dir = some dir → w = State.winner (s.setChan c { s.chan c with drv.jog := none }) c →
    (s.chan c).drv.referenced = true → s.strokeKnown c = true →
    (dir = .opening ∧ (s.chan c).drv.count < s.stroke c - s.stroke c / 20) ∨
      (dir = .closing ∧ s.stroke c / 20 < (s.chan c).drv.count) →
    completes (.stall c) s (fun t => t.Follows { s.setChan c { (s.chan c).release with
      state := .faulted, dem.win := w, dem.movement := none, dem.pending := none, drv.jog := none
      drv.retryTimer := if retryWinner w = true ∧ (s.chan c).drv.retryCount < 3 then some 5000 else none } with
      sup.faults := insertCode (16 + 8 * (c.number - 1)) s.sup.faults }))

/-- The other faults and the retries (R137 to R142): OVERCURRENT, OPEN_LOAD and NO_PULSE release the motor, end a jog of the channel (R146) and stand in the fault set, NO_PULSE
taking the reference with it; with FIRE or OVERRIDE winning for a position the channel retries after 5 s, up to three times: it then waits
with its movement anew, by R107 where it is not referenced, or rests where its target calls for none; and a retry that ends under the
supply veto is held over. -/
def Obligations.FaultsAndRetries : Prop :=
  (∀ (c : Chan) (w : Winner) (s : State), (s.chan c).driven = true → (s.chan c).drv.overcurrentTimer.isSome = true →
    w = State.winner (s.setChan c { s.chan c with drv.jog := none }) c →
    completes (.overcurrent c) s (fun t => t.Follows { s.setChan c { (s.chan c).release with
      state := .faulted, dem.win := w, dem.movement := none, dem.pending := none, drv.jog := none
      drv.retryTimer := if retryWinner w = true ∧ (s.chan c).drv.retryCount < 3 then some 5000 else none } with
      sup.faults := insertCode (16 + 8 * (c.number - 1) + 1) s.sup.faults })) ∧
  (∀ (c : Chan) (w : Winner) (s : State), (s.chan c).driven = true → (s.chan c).drv.openLoadTimer.isSome = true →
    w = State.winner (s.setChan c { s.chan c with drv.jog := none }) c →
    completes (.openLoad c) s (fun t => t.Follows { s.setChan c { (s.chan c).release with
      state := .faulted, dem.win := w, dem.movement := none, dem.pending := none, drv.jog := none
      drv.retryTimer := if retryWinner w = true ∧ (s.chan c).drv.retryCount < 3 then some 5000 else none } with
      sup.faults := insertCode (16 + 8 * (c.number - 1) + 2) s.sup.faults })) ∧
  (∀ (c : Chan) (w : Winner) (s : State), (s.chan c).driven = true → (s.chan c).drv.noPulseTimer.isSome = true →
    w = State.winner (s.setChan c { s.chan c with drv.jog := none }) c →
    completes (.noPulse c) s (fun t => t.Follows { s.setChan c { (s.chan c).release with
      state := .faulted, dem.win := w, dem.movement := none, dem.pending := none, drv.jog := none
      dem.moveCount := 0, dem.refTimer := none, dem.refDue := false, drv.referenced := false
      drv.retryTimer := if retryWinner w = true ∧ (s.chan c).drv.retryCount < 3 then some 5000 else none } with
      sup.faults := insertCode (16 + 8 * (c.number - 1) + 3) s.sup.faults })) ∧
  (∀ (c : Chan) (s : State), (s.chan c).state = .faulted → (s.chan c).drv.retryTimer.isSome = true → s.supplyVeto = true →
    completes (.retryExpiry c) s (fun t => t = s.setChan c { s.chan c with drv.retryTimer := none, drv.retryHeld := true })) ∧
  (∀ (c : Chan) (src : Source) (n : Nat) (k : Channel) (s : State), (s.chan c).state = .faulted →
    (s.chan c).drv.retryTimer.isSome = true →
    s.supplyVeto = false → (s.chan c).dem.win = some (src, .pos n) → src = .override ∨ src = .fire → (s.chan c).drv.referenced = true →
    k = (if s.callsMovement c n then { s.chan c with
        state := .waiting, dem.movement := some ⟨.ordinary, n, some src⟩, dem.pending := none
        drv.retryCount := (s.chan c).drv.retryCount + 1, drv.retryTimer := none, drv.retryHeld := false }
      else { s.chan c with
        state := .idle, dem.movement := none, dem.pending := none
        drv.retryCount := 0, drv.retryTimer := none, drv.retryHeld := false }) →
    s.bud.isoOpen = false → s.bud.own.state ≠ .deferred ∨ s.bud.own.channels.get c = false →
    completes (.retryExpiry c) s (fun t => t.Follows (s.setChan c k) ∧ t.chan c = k)) ∧
  (∀ (c : Chan) (n : Nat) (k : Channel) (s : State), (s.chan c).state = .faulted → (s.chan c).drv.retryTimer.isSome = true →
    s.supplyVeto = false → (∃ src, (s.chan c).dem.win = some (src, .pos n) ∧ (src = .override ∨ src = .fire) ∧
      k = { s.chan c with
        state := .waiting, dem.pending := none
        dem.movement := some ⟨if n = 1000 ∨ (s.chan c).lim.veto = true then .ordinary else .reference, n, some src⟩
        drv.retryCount := (s.chan c).drv.retryCount + 1, drv.retryTimer := none, drv.retryHeld := false }) →
    (s.chan c).drv.referenced = false → n = 0 ∨ (n = 1000 ∧ (s.chan c).drv.restEnd ≠ some .openEnd) →
    s.bud.isoOpen = false → s.bud.own.state ≠ .deferred ∨ s.bud.own.channels.get c = false →
    completes (.retryExpiry c) s (fun t => t.Follows (s.setChan c k) ∧ t.chan c = k)) ∧
  (∀ (w : Winner), retryWinner w = true ↔ ∃ p ∈ w, (p.1 = .override ∨ p.1 = .fire) ∧ p.2 ≠ .hold)

/-- The end of a reversal pause (R102, R144), of a jog (R146) and of the 7 days to the next reference (R103, R104): the pending target is taken
at rest; the end of a jog that alone drives a RUNNING channel stops it, a reference run under it goes on with nothing pending (R105), one
formed for the jog too (log entry 35), and a jog under another source only ends; a reference falls due and starts on an IDLE channel with no
higher source and no veto. -/
def Obligations.PausesJogsReferences : Prop :=
  (∀ (c : Chan) (src : Source) (n : Nat) (p : Target) (k : Channel) (s : State), (s.chan c).state = .reversing →
    (s.chan c).drv.reversalTimer.isSome = true → s.supplyVeto = false → (s.chan c).drv.referenced = true → (s.chan c).dem.refDue = false →
    (s.chan c).dem.win = some (src, p) → (s.chan c).dem.pending = some (.pos n) →
    s.bud.isoOpen = false → s.bud.own.state ≠ .deferred ∨ s.bud.own.channels.get c = false →
    k = (if s.callsMovement c n then { s.chan c with
        state := .waiting, dem.movement := some ⟨.ordinary, n, some src⟩, dem.pending := none, drv.reversalTimer := none }
      else { s.chan c with state := .idle, dem.movement := none, dem.pending := none, drv.reversalTimer := none }) →
    completes (.reversalPauseEnd c) s (fun t => t.Follows (s.setChan c k) ∧ t.chan c = k)) ∧
  (∀ (c : Chan) (s : State), (s.chan c).state = .reversing → (s.chan c).drv.reversalTimer.isSome = true →
    (s.chan c).dem.refDue = false → (s.chan c).dem.pending = none ∨ (s.chan c).dem.pending = some .hold →
    completes (.reversalPauseEnd c) s (fun t => t.Follows (s.setChan c { s.chan c with
      state := if (s.chan c).drv.referenced then .idle else .unreferenced
      dem.movement := none, dem.pending := none, drv.reversalTimer := none }))) ∧
  (∀ (c : Chan) (s : State), (s.chan c).jogRuns = true → s.winner c = (s.chan c).dem.win → (∀ w ∈ s.winner c, w.1 ≠ .jog) →
    completes (.jogTimerExpiry c) s (fun t => t.Follows (s.setChan c { s.chan c with drv.jog := none }))) ∧
  (∀ (c : Chan) (s : State), (s.chan c).jogRuns = true → s.detected = true → (s.chan c).state = .running →
    (s.chan c).src = ⟨none, none, false, none, none⟩ → (s.chan c).lim.veto = false → s.supplyVeto = false →
    s.winner c = (s.chan c).dem.win → (s.chan c).dem.refDue = false →
    completes (.jogTimerExpiry c) s (fun t => t.Follows (s.setChan c { (s.chan c).release with
      state := if (s.chan c).drv.referenced then .idle else .unreferenced
      dem.win := none, dem.movement := none, dem.pending := none, drv.jog := none }))) ∧
  (∀ (c : Chan) (s : State), (s.chan c).jogRuns = true → s.detected = true → (s.chan c).state = .referencing →
    (s.chan c).dem.win.map Prod.fst = some .jog → (s.chan c).src = ⟨none, none, false, none, none⟩ →
    completes (.jogTimerExpiry c) s (fun t => t.Follows (s.setChan c { s.chan c with
      dem.win := none, dem.pending := none, drv.jog := none }))) ∧
  (∀ (c : Chan) (k : Channel) (s : State), (s.chan c).dem.refTimer.isSome = true → (s.chan c).state = .idle → s.supplyVeto = false →
    (s.chan c).lim.veto = false → (∀ w ∈ (s.chan c).dem.win, w.1 ≠ .override ∧ w.1 ≠ .fire ∧ w.1 ≠ .weather) →
    s.bud.isoOpen = false → s.bud.own.state ≠ .deferred ∨ s.bud.own.channels.get c = false →
    k = { s.chan c with
      state := .waiting, dem.refTimer := none, dem.refDue := true
      dem.movement := some ⟨.reference, 0, (s.chan c).dem.win.map Prod.fst⟩, dem.pending := (s.chan c).dem.win.map Prod.snd } →
    completes (.referenceTimerExpiry c) s (fun t => t.Follows (s.setChan c k) ∧ t.chan c = k)) ∧
  (∀ (c : Chan) (s : State), (s.chan c).dem.refTimer.isSome = true →
    (s.chan c).state ≠ .idle ∨ s.supplyVeto = true ∨ (s.chan c).lim.veto = true ∨
      (∃ w ∈ (s.chan c).dem.win, w.1 = .override ∨ w.1 = .fire ∨ w.1 = .weather) →
    completes (.referenceTimerExpiry c) s (fun t => t.Follows (s.setChan c { s.chan c with
      dem.refTimer := none, dem.refDue := true })))

/-! ## Limits, supply and lamp -/

/-- The duty window, the throttle and the thermal hold (R148 to R155): a window's end clears the run counter; a tick counts, and at the
threshold the channel is throttled for the factor's windows; a tick complete at the instant of a stop counts, and one at the
instant at which a new window has begun is of the old one, and does not count again (log entry 36); the hold vetoes every channel for 60 s and longer while the flag stands; each
veto and each end of one reaches the demands: a reference that waits is withdrawn, or replaced on an UNREFERENCED channel, one that is driven is
stopped, and at the end a due reference starts (R93, R104, R105, R156). That a referenced channel that waits for its due reference with
WEATHER winning is withdrawn, and its closing formed anew, is log entry 57, the model's choice. -/
def Obligations.DutyAndHold : Prop :=
  (∀ (c : Chan) (s : State), (s.chan c).lim.window.isSome = true → (s.chan c).lim.throttled = false →
    completes (.dutyWindowEnd c) s (fun t => t = s.setChan c { s.chan c with
      lim.window := some (s.fields.dutyWindow * 1000), lim.tickAcc := 0, lim.runCounter := 0 })) ∧
  (∀ (c : Chan) (s : State), (s.chan c).lim.throttled = false →
    100 ≤ (s.chan c).lim.tickAcc ∨ ((s.chan c).driven = true ∧
      ((s.chan c).lim.window ≠ some (s.fields.dutyWindow * 1000) ∨ (s.chan c).lim.tickAcc ≠ 0)) →
    (s.chan c).lim.runCounter + 1 < s.fields.dutyWindow * 10 * s.fields.duty / 100 →
    completes (.runTick c) s (fun t => t.Follows (s.setChan c { s.chan c with
      lim.runCounter := (s.chan c).lim.runCounter + 1, lim.tickAcc := 0 }))) ∧
  (∀ (c : Chan) (s : State), (s.chan c).lim.throttled = true ∨ ((s.chan c).lim.tickAcc < 100 ∧ (s.chan c).driven = false) ∨
      ((s.chan c).lim.tickAcc = 0 ∧ (s.chan c).lim.window = some (s.fields.dutyWindow * 1000)) →
    completes (.runTick c) s (fun t => t = s)) ∧
  (∀ (c : Chan) (s : State), (s.chan c).state = .running → (s.chan c).lim.throttled = false →
    (s.chan c).lim.window ≠ some (s.fields.dutyWindow * 1000) ∨ (s.chan c).lim.tickAcc ≠ 0 →
    s.fields.dutyWindow * 10 * s.fields.duty / 100 ≤ (s.chan c).lim.runCounter + 1 →
    completes (.runTick c) s (fun t => t.Redemands s (s.setChan c { s.chan c with
      lim := { window := none, tickAcc := 0, runCounter := (s.chan c).lim.runCounter + 1, throttled := true
               throttleTimer := some (s.fields.throttleFactor * (s.fields.dutyWindow * 1000)), veto := true } }))) ∧
  (∀ (c : Chan) (s : State), (s.chan c).lim.throttled = true → (s.chan c).lim.throttleTimer.isSome = true →
    (s.chan c).state ≠ .absent → (s.chan c).dem.refDue = false → (s.chan c).lim.veto = true →
    completes (.throttleEnd c) s (fun t => t.Redemands s (s.setChan c { s.chan c with
      lim := { window := some (s.fields.dutyWindow * 1000), tickAcc := 0, runCounter := 0, throttled := false
               throttleTimer := none, veto := s.lim.hold } }))) ∧
  (∀ (s : State), s.detected = true → s.lim.hold = false → (∀ c, (s.chan c).state ≠ .referencing) →
    completes .driverFlagSet s (fun t => t.Redemands s (State.onPresent { s with
      lim := { hold := true, holdTimer := some 60000 }, sup.faults := insertCode 14 s.sup.faults }
      (fun _ k => { k with lim.veto := true })))) ∧
  (∀ (s : State), s.lim.hold = true → s.lim.holdTimer.isSome = true →
    completes (.thermalHoldEnd true) s (fun t => t = { s with lim.holdTimer := some 60000 })) ∧
  (∀ (s : State), s.lim.hold = true → s.lim.holdTimer.isSome = true → (∀ c, (s.chan c).dem.refDue = false) →
    (∀ c, (s.chan c).state ≠ .referencing ∨ (s.chan c).lim.veto = true) →
    completes (.thermalHoldEnd false) s (fun t => t.Redemands s (State.onPresent { s with
      lim := { hold := false, holdTimer := none }, sup.faults := s.sup.faults.filter (fun n => n != 14) }
      (fun _ k => { k with lim.veto := k.lim.throttled })))) ∧
  (∀ (c : Chan) (s : State), (s.chan c).state = .running → (s.chan c).lim.throttled = false → (s.chan c).lim.veto = false →
    (s.chan c).lim.window ≠ some (s.fields.dutyWindow * 1000) ∨ (s.chan c).lim.tickAcc ≠ 0 →
    s.detected = true → s.fields.dutyWindow * 10 * s.fields.duty / 100 ≤ (s.chan c).lim.runCounter + 1 →
    s.supplyVeto = false → (s.chan c).src.override = none → (s.chan c).src.fire = none → (s.chan c).src.weather = false →
    (s.chan c).dem.win.isSome = true → (s.chan c).dem.refDue = false →
    completes (.runTick c) s (fun t =>
      (t.chan c).state = (if (s.chan c).drv.referenced then .idle else .unreferenced) ∧ (t.chan c).dem.win = none ∧
      (t.chan c).drv = (s.chan c).release.drv)) ∧
  (∀ (cmd : Instr) (c : Chan) (l : ChLimit) (w : Winner) (s : State), s.limitBegins c l cmd →
    w = State.winner (s.setChan c { s.chan c with lim := l }) c → s.referenceMeets c w → s.supplyVeto = false → s.noStart c →
    completes cmd s (fun t => t.chan c = { s.withoutReference c w with lim := l })) ∧
  (∀ (cmd : Instr) (c : Chan) (l : ChLimit) (w : Winner) (s : State), s.limitEnds c l cmd →
    w = State.winner (s.setChan c { s.chan c with lim := l }) c → s.supplyVeto = false → s.detected = true → s.noStart c →
    (s.chan c).state = .idle → (s.chan c).dem.refDue = true →
    (∀ x ∈ w, x.1 = .localKey ∨ x.1 = .ventilate ∨ x.1 = .jog) →
    completes cmd s (fun t => t.chan c = { s.chan c with
      state := .waiting, lim := l, dem.win := w
      dem.movement := some ⟨.reference, 0, w.map Prod.fst⟩, dem.pending := w.map Prod.snd }))

/-- The supply monitor and the lamp (R94, R104, R125, R141, R145, R156, R164, R165, R168): a reading runs or stops the four timers; the veto's start suspends
every channel, a driven one to WAITING, and drops the live claim, and a CLAIM that waits is withdrawn, with a live claim or none, while one in flight stays in the queue; a second condition changes nothing more; at the end of the last one a
channel whose winner equals its standing demand goes on and one whose winner differs takes it as a change, a retry held over is made, a due
reference starts on an IDLE channel, and a reference that waits under a limit veto is withdrawn or replaced. The lamp steps through its
cycle. That a limit veto that has begun under the supply veto acts on a waiting reference at its end is log entry 19, that it withdraws the
due reference of a referenced channel with WEATHER winning 57, and that the reading of VMOT is in tenths of a volt 26. -/
def Obligations.SupplyAndLamp : Prop :=
  (∀ (decivolts : Nat) (s : State), s.detected = true →
    completes (.vmotReading decivolts) s (fun t => t = { s with
      sup.lowEntry := if s.sup.low = false ∧ decivolts < 200 then some (s.sup.lowEntry.getD 100) else none
      sup.lowRecovery := if s.sup.low = true ∧ 210 < decivolts then some (s.sup.lowRecovery.getD 1000) else none
      sup.highEntry := if s.sup.high = false ∧ 300 < decivolts then some (s.sup.highEntry.getD 100) else none
      sup.highRecovery := if s.sup.high = true ∧ decivolts < 290 then some (s.sup.highRecovery.getD 1000) else none })) ∧
  (∀ (s : State), s.sup.low = false → s.sup.high = false → s.sup.lowEntry.isSome = true → s.svc.programming = none →
    completes .supplyLowSet s (fun t =>
      t.kept = State.kept { s with
        sup.low := true, sup.lowEntry := none, sup.lowRecovery := none, sup.faults := insertCode 3 s.sup.faults } ∧
      t.bud.own.state = .none ∧
      ((∀ f ∈ s.line.flight, f.content.kind ≠ .claim) → ∀ e ∈ t.line.queue, e.notice.kind ≠ .claim) ∧
      ((∃ f ∈ s.line.flight, f.content.kind = .claim) → t.line.queue.filter (fun e => decide (e.notice.kind = .claim)) =
        s.line.queue.filter (fun e => decide (e.notice.kind = .claim))) ∧
      ∀ c, t.chan c = if (s.chan c).state = .absent then s.chan c
        else if (s.chan c).driven then { (s.chan c).release with
          state := .waiting, dem.standing := some (s.chan c).dem.win, dem.win := none }
        else { s.chan c with dem.standing := some (s.chan c).dem.win, dem.win := none })) ∧
  (∀ (s : State), s.sup.low = false → s.sup.high = false → s.sup.highEntry.isSome = true →
    completes .supplyHighSet s (fun t =>
      t.kept = State.kept { s with
        sup.high := true, sup.highEntry := none, sup.highRecovery := none, sup.faults := insertCode 4 s.sup.faults } ∧
      t.bud.own.state = .none ∧
      ((∀ f ∈ s.line.flight, f.content.kind ≠ .claim) → ∀ e ∈ t.line.queue, e.notice.kind ≠ .claim) ∧
      ((∃ f ∈ s.line.flight, f.content.kind = .claim) → t.line.queue.filter (fun e => decide (e.notice.kind = .claim)) =
        s.line.queue.filter (fun e => decide (e.notice.kind = .claim))) ∧
      ∀ c, t.chan c = if (s.chan c).state = .absent then s.chan c
        else if (s.chan c).driven then { (s.chan c).release with
          state := .waiting, dem.standing := some (s.chan c).dem.win, dem.win := none }
        else { s.chan c with dem.standing := some (s.chan c).dem.win, dem.win := none })) ∧
  (∀ (s : State), s.sup.low = true → s.sup.high = false → s.sup.highEntry.isSome = true →
    completes .supplyHighSet s (fun t => t.Follows { s with
      sup.high := true, sup.highEntry := none, sup.highRecovery := none, sup.faults := insertCode 4 s.sup.faults })) ∧
  (∀ (s : State), s.sup.low = false → s.sup.high = true → s.sup.lowEntry.isSome = true → s.svc.programming = none →
    completes .supplyLowSet s (fun t => t.Follows { s with
      sup.low := true, sup.lowEntry := none, sup.lowRecovery := none, sup.faults := insertCode 3 s.sup.faults })) ∧
  (∀ (s : State), s.sup.low = true → s.sup.high = true → s.sup.highRecovery.isSome = true →
    completes .supplyHighClear s (fun t => t.Follows { s with
      sup.high := false, sup.highEntry := none, sup.highRecovery := none, sup.faults := s.sup.faults.filter (fun n => n != 4) })) ∧
  (∀ (s : State), s.sup.low = true → s.sup.high = true → s.sup.lowRecovery.isSome = true →
    completes .supplyLowClear s (fun t => t.Follows { s with
      sup.low := false, sup.lowEntry := none, sup.lowRecovery := none, sup.faults := s.sup.faults.filter (fun n => n != 3) })) ∧
  (∀ (s : State), s.sup.low = true → s.sup.high = false → s.sup.lowRecovery.isSome = true →
    (∀ c, (s.chan c).state ≠ .absent → (s.chan c).lim.veto = false ∧ (s.chan c).dem.refDue = false ∧ (s.chan c).drv.retryHeld = false ∧
      (s.chan c).dem.standing = some (State.winner { s with sup.low := false } c)) →
    completes .supplyLowClear s (fun t => t.Follows (State.onPresent { s with
      sup.low := false, sup.lowEntry := none, sup.lowRecovery := none, sup.faults := s.sup.faults.filter (fun n => n != 3) }
      (fun c k => { k with dem.win := State.winner { s with sup.low := false } c, dem.standing := none })))) ∧
  (∀ (s : State), s.sup.low = false → s.sup.high = true → s.sup.highRecovery.isSome = true →
    (∀ c, (s.chan c).state ≠ .absent → (s.chan c).lim.veto = false ∧ (s.chan c).dem.refDue = false ∧ (s.chan c).drv.retryHeld = false ∧
      (s.chan c).dem.standing = some (State.winner { s with sup.high := false } c)) →
    completes .supplyHighClear s (fun t => t.Follows (State.onPresent { s with
      sup.high := false, sup.highEntry := none, sup.highRecovery := none, sup.faults := s.sup.faults.filter (fun n => n != 4) }
      (fun c k => { k with dem.win := State.winner { s with sup.high := false } c, dem.standing := none })))) ∧
  (∀ (cmd : Instr) (v s : State), s.vetoEnds v cmd →
    (∀ c, (s.chan c).state ≠ .absent → (s.chan c).dem.standing.isSome = true ∧
      ((s.chan c).lim.veto = true →
        (s.chan c).state ≠ .referencing ∧ (s.chan c).dem.movement.map Movement.kind ≠ some .reference) ∧
      ((s.chan c).dem.standing = some (v.winner c) →
        (s.chan c).drv.retryHeld = false ∧ ((s.chan c).state ≠ .idle ∨ (s.chan c).dem.refDue = false))) →
    completes cmd s (fun t => t.Redemands s (v.onPresent (fun _ k => { k with
      dem.win := k.dem.standing.join, dem.standing := none, drv.retryHeld := false })))) ∧
  (∀ (cmd : Instr) (c : Chan) (w : Winner) (v s : State), s.vetoEnds v cmd → w = v.winner c → (s.chan c).state = .waiting →
    (s.chan c).lim.veto = true → s.referenceMeets c w → (s.chan c).dem.standing.isSome = true → s.noStart c →
    completes cmd s (fun t => t.chan c = { s.withoutReference c w with dem.standing := none, drv.retryHeld := false })) ∧
  (∀ (cmd : Instr) (c : Chan) (src : Source) (n : Nat) (k : Channel) (v s : State), s.vetoEnds v cmd →
    v.winner c = some (src, .pos n) → src = .override ∨ src = .fire → (s.chan c).dem.standing = some (v.winner c) →
    (s.chan c).state = .faulted → (s.chan c).drv.retryHeld = true →
    (s.chan c).drv.referenced = true ∨ n = 0 ∨ (n = 1000 ∧ (s.chan c).drv.restEnd ≠ some .openEnd) →
    k = { s.chan c with
      dem.win := v.winner c, dem.standing := none, dem.pending := none, drv.retryTimer := none, drv.retryHeld := false } →
    s.noStart c →
    completes cmd s (fun t => t.chan c =
      if (s.chan c).drv.referenced = false then { k with
        state := .waiting, drv.retryCount := (s.chan c).drv.retryCount + 1
        dem.movement := some ⟨if n = 1000 ∨ (s.chan c).lim.veto = true then .ordinary else .reference, n, some src⟩ }
      else if s.callsMovement c n = true then { k with
        state := .waiting, drv.retryCount := (s.chan c).drv.retryCount + 1, dem.movement := some ⟨.ordinary, n, some src⟩ }
      else { k with state := .idle, drv.retryCount := 0, dem.movement := none })) ∧
  (∀ (cmd : Instr) (c : Chan) (v s : State), s.vetoEnds v cmd → (s.chan c).dem.standing = some (v.winner c) →
    (s.chan c).state = .idle → (s.chan c).dem.refDue = true → (s.chan c).lim.veto = false →
    (∀ w ∈ v.winner c, w.1 = .localKey ∨ w.1 = .ventilate ∨ w.1 = .jog) → s.noStart c →
    completes cmd s (fun t => t.chan c = { s.chan c with
      state := .waiting, dem.win := v.winner c, dem.standing := none, drv.retryHeld := false
      dem.movement := some ⟨.reference, 0, (v.winner c).map Prod.fst⟩, dem.pending := (v.winner c).map Prod.snd })) ∧
  (∀ (s : State), s.sup.lamp.timer.isSome = true → s.sup.lamp.pattern ≠ .off → s.sup.lamp.pattern ≠ .steady →
    completes .lampCycleStep s (fun t => t = { s with sup.lamp :=
      { pattern := s.sup.lamp.pattern
        part := (s.sup.lamp.part + 1) % (if s.sup.lamp.pattern = .double then 4 else 2)
        on := !s.sup.lamp.on
        timer := some (match s.sup.lamp.pattern with
          | .fast => 125
          | .double => if (s.sup.lamp.part + 1) % 4 = 3 then 1050 else 150
          | _ => 1000) } }))

/-! ## The service port -/

/-- The requests that read and stage (R174 to R176): in SERVICE mode, outside a programming and with the index or bay in range, each is
answered with its data and changes nothing else but the staging word; each of the eight requests is refused BUSY during programming, and
BAD_INDEX where a field of it is out of range; outside SERVICE mode no request and no byte at SRX does anything. A byte of the port has a low start bit, its 8 bits, the least significant first, and a
high stop bit, and the port is high between characters.
That replies are kept as a list that is not drained is log entry 24, the byte order of the fields of two bytes 40, the rounding of the ages
41, the position 0 of an ABSENT channel 42, READ WORD's unclamped word 43, that of a character only the levels are modelled 45, and a whole request between the bytes of another 51. -/
def Obligations.ServiceReplies : Prop :=
  (∀ (s : State), completes .requestTimeout s (fun t => t = { s with svc.rx := [], svc.rxTimer := none })) ∧
  (∀ (index : Byte) (s : State), s.sup.mode = .service → s.svc.programming = none → index.toNat ≤ 63 →
    completes (.readWord index) s (fun t => t = { s with svc.replies := s.svc.replies ++ [ackFrame
      [(readStore s.cfg.store index.toNat).decode.1.hi, (readStore s.cfg.store index.toNat).decode.1.lo,
        (match (readStore s.cfg.store index.toNat).decode.2 with
          | .clean => 0#8
          | .corrected => 1#8
          | .uncorrectable => 2#8)]] })) ∧
  (∀ (index : Byte) (s : State), s.sup.mode = .service → s.svc.programming = none → index.toNat ≤ 63 →
    completes (.readStage index) s (fun t => t = { s with svc.replies := s.svc.replies ++ [ackFrame
      [(s.svc.staging.getD index.toNat 0#16).hi, (s.svc.staging.getD index.toNat 0#16).lo]] })) ∧
  (∀ (index : Byte) (value : Word) (s : State), s.sup.mode = .service → s.svc.programming = none → index.toNat ≤ 63 →
    completes (.stageWord index value) s (fun t => t = { s with
      svc.staging := s.svc.staging.set index.toNat value, svc.replies := s.svc.replies ++ [ackFrame []] })) ∧
  (∀ (s : State), s.sup.mode = .service → s.svc.programming = none →
    completes .readState s (fun t => t = { s with svc.replies := s.svc.replies ++ [ackFrame
      ([3#8, BitVec.ofNat 8 s.sup.faults.length] ++ s.sup.faults.map (BitVec.ofNat 8) ++
        Quad.all.flatMap (fun c => BitVec.ofNat 8 (s.chan c).state.code ::
          natBytes (if (s.chan c).state = .absent then 0 else s.position c)))] })) ∧
  (∀ (b : Byte), serialIdle = true ∧ serialChar b = [false, b.getLsbD 0, b.getLsbD 1, b.getLsbD 2, b.getLsbD 3, b.getLsbD 4,
    b.getLsbD 5, b.getLsbD 6, b.getLsbD 7, true] ∧ serialByte (serialChar b) = some b) ∧
  (∀ (levels : List Bool), levels.length ≠ 10 ∨ levels[0]? = some true ∨ levels[9]? = some false → serialByte levels = none) ∧
  (∀ (data : List Byte) (s : State), (s.ack data).stxLevels = s.stxLevels ++ (ackFrame data).flatMap serialChar) ∧
  (∀ (bay : Byte) (s : State), s.sup.mode = .service → s.svc.programming = none → 1 ≤ bay.toNat → bay.toNat ≤ 32 →
    completes (.readPeer bay) s (fun t => t = { s with svc.replies := s.svc.replies ++ [ackFrame
      (match s.peer.entries.find? (fun e => e.bay == bay.toNat) with
        | none => [0#8, 0#8, 0#8]
        | some e => BitVec.ofNat 8 (1 + (if e.status.isSome then 2 else 0) + (if e.weather.isSome then 4 else 0) +
              (if e.health.isSome then 8 else 0)) :: (natBytes (e.age / 100) ++
            ((e.status.map StatusContent.bytes).getD [] ++
              (e.weather.map (fun h => natBytes (min 65535 (h.age / 100)) ++ h.report.bytes)).getD [] ++
              (e.health.map HealthContent.bytes).getD [])))] })) ∧
  (∀ (r : Instr) (s : State), (requestOf r).isSome = true → s.sup.mode = .service → s.svc.programming.isSome = true →
    completes r s (fun t => t = { s with svc.replies := s.svc.replies ++ [refusedFrame .busy] })) ∧
  (∀ (r : Instr) (s : State), (requestOf r).isSome = true → fieldsInRange r = false → s.sup.mode = .service → s.svc.programming = none →
    completes r s (fun t => t = { s with svc.replies := s.svc.replies ++ [refusedFrame .badIndex] })) ∧
  (∀ (r : Instr) (s : State), (requestOf r).isSome = true ∨ (∃ bytes, r = .badCommandRequest bytes) → s.sup.mode ≠ .service →
    completes r s (fun t => t = s)) ∧
  (∀ (first : Byte) (data : List Byte),
    (serviceFrame first data).take (data.length + 2) = first :: BitVec.ofNat 8 data.length :: data ∧
    (serviceFrame first data).length = data.length + 3 ∧ sumsToZero (serviceFrame first data) = true) ∧
  (∀ (data : List Byte), ackFrame data = serviceFrame 0xA0#8 data ∧
    refusedFrame .badSum = serviceFrame 0xA1#8 [1#8] ∧ refusedFrame .badIndex = serviceFrame 0xA1#8 [2#8] ∧
    refusedFrame .badCommand = serviceFrame 0xA1#8 [3#8] ∧ refusedFrame .busy = serviceFrame 0xA1#8 [4#8] ∧
    refusedFrame .badSignature = serviceFrame 0xA1#8 [5#8] ∧ refusedFrame .supplyLow = serviceFrame 0xA1#8 [6#8])

/-- Programming (R177): with a staged signature that matches and no low supply it begins, and writes the staging words in turn, the last
answered with ACK; a signature that differs and a low supply refuse it; a supply that falls during it ends it with a word that does not
decode and the words after it unwritten.
That the word cut short holds free data is log entry 5. -/
def Obligations.Programming : Prop :=
  (∀ (s : State), s.sup.mode = .service → s.svc.programming = none → signature s.svc.staging = s.svc.staging.getD 63 0#16 →
    completes .program s (fun t => t = if s.sup.low then { s with svc.replies := s.svc.replies ++ [refusedFrame .supplyLow] }
      else { s with svc.programming := some 0, svc.programTimer := some 5 })) ∧
  (∀ (s : State), s.sup.mode = .service → s.svc.programming = none → signature s.svc.staging ≠ s.svc.staging.getD 63 0#16 →
    completes .program s (fun t => t = { s with svc.replies := s.svc.replies ++ [refusedFrame .badSignature] })) ∧
  (∀ (i : Nat) (s : State), s.svc.programming = some i → i < 63 →
    completes .programWordWritten s (fun t => t = { s with
      cfg.store := s.cfg.store.set i { written := s.svc.staging.getD i 0#16, wrong := 0#22 }
      svc.programming := some (i + 1), svc.programTimer := some 5 })) ∧
  (∀ (s : State), s.svc.programming = some 63 →
    completes .programWordWritten s (fun t => t = { s with
      cfg.store := s.cfg.store.set 63 { written := s.svc.staging.getD 63 0#16, wrong := 0#22 }
      svc.programming := none, svc.programTimer := none, svc.replies := s.svc.replies ++ [ackFrame []] })) ∧
  (∀ (i : Nat) (s : State), s.svc.programming = some i → i < 64 → storeWf s.cfg.store = true → s.sup.low = false →
    s.sup.lowEntry.isSome = true →
    completes .supplyLowSet s (fun t => t.svc.programming = none ∧ t.svc.programTimer = none ∧
      t.svc.replies = s.svc.replies ++ [refusedFrame .supplyLow] ∧
      (readStore t.cfg.store i).decode.2 = .uncorrectable ∧
      (∀ k ∈ List.range 64, k ≠ i → readStore t.cfg.store k = readStore s.cfg.store k) ∧
      t.sup.low = true ∧ 3 ∈ t.sup.faults))

/-- JOG, STOP and bytes at SRX (R146, R174 to R176): an accepted JOG is acknowledged and its source taken like any other, STOP ends a jog
served, and stops a RUNNING channel where it alone drives it, and a reference run goes on with nothing pending (R105), one formed for the jog
too (log entry 35);
bytes that make no whole request wait for more for 50 ms, and bytes that come in parts are taken as they come at once; a whole request
with a wrong sum is refused BAD_SUM, one whose code is not defined or whose length is not that of its code BAD_COMMAND, or BUSY during
programming, and the bytes of a defined request do what its command does.
A JOG toward the end at which the channel rests is left to log entry 28; the operands of BAD_COMMAND_REQUEST are log entry 24, and that a field of two
bytes in a request has its high byte first is log entry 40. -/
def Obligations.JogsAndRequests : Prop :=
  (∀ (channel direction : Byte) (time : Word) (c : Chan) (s : State), s.sup.mode = .service → s.svc.programming = none →
    c.number = channel.toNat → direction.toNat ≤ 1 → 100 ≤ time.toNat → time.toNat ≤ 10000 → (s.chan c).state ≠ .absent →
    (s.chan c).drv.jog = none → (s.chan c).drv.restEnd ≠ some (if direction.toNat = 1 then .openEnd else .closedEnd) →
    completes (.jog channel direction time) s (fun t => t.Redemands s
      { s.setChan c { s.chan c with
          drv.jog := some ⟨if direction.toNat = 1 then .opening else .closing, time.toNat, none⟩ } with
        svc.replies := s.svc.replies ++ [ackFrame []] })) ∧
  (∀ (channel direction : Byte) (time : Word) (c : Chan) (s : State), s.sup.mode = .service → s.svc.programming = none →
    c.number = channel.toNat → direction.toNat ≤ 1 → 100 ≤ time.toNat → time.toNat ≤ 10000 → (s.chan c).state = .idle →
    (s.chan c).drv.jog = none → (s.chan c).drv.restEnd ≠ some (if direction.toNat = 1 then .openEnd else .closedEnd) →
    s.detected = true → (s.chan c).src = ⟨none, none, false, none, none⟩ → (s.chan c).dem.win = none → (s.chan c).lim.veto = false →
    s.supplyVeto = false → (s.chan c).dem.refDue = false → s.bud.isoOpen = false →
    completes (.jog channel direction time) s (fun t => t.chan c = { s.chan c with
      state := .waiting
      drv.jog := some ⟨if direction.toNat = 1 then .opening else .closing, time.toNat, none⟩
      dem.win := some (.jog, .pos (if direction.toNat = 1 then 1000 else 0))
      dem.movement := some ⟨.ordinary, if direction.toNat = 1 then 1000 else 0, some .jog⟩, dem.pending := none })) ∧
  (∀ (channel direction : Byte) (time : Word) (s : State), s.sup.mode = .service → s.svc.programming = none →
    channel.toNat < 1 ∨ 4 < channel.toNat ∨ 1 < direction.toNat ∨ time.toNat < 100 ∨ 10000 < time.toNat →
    completes (.jog channel direction time) s (fun t => t = { s with
      svc.replies := s.svc.replies ++ [refusedFrame .badIndex] })) ∧
  (∀ (channel : Byte) (c : Chan) (s : State), s.sup.mode = .service → s.svc.programming = none → c.number = channel.toNat →
    (s.chan c).drv.jog = none ∨ (s.winner c = (s.chan c).dem.win ∧ (∀ w ∈ s.winner c, w.1 ≠ .jog)) →
    completes (.stop channel) s (fun t => t.Follows { s.setChan c { s.chan c with drv.jog := none } with
      svc.replies := s.svc.replies ++ [ackFrame []] })) ∧
  (∀ (channel : Byte) (c : Chan) (s : State), s.sup.mode = .service → s.svc.programming = none → c.number = channel.toNat →
    (s.chan c).drv.jog.isSome = true → s.detected = true → (s.chan c).state = .running →
    (s.chan c).src = ⟨none, none, false, none, none⟩ → (s.chan c).lim.veto = false → s.supplyVeto = false →
    s.winner c = (s.chan c).dem.win → (s.chan c).dem.refDue = false →
    completes (.stop channel) s (fun t => t.Follows { s.setChan c { (s.chan c).release with
        state := if (s.chan c).drv.referenced then .idle else .unreferenced
        dem.win := none, dem.movement := none, dem.pending := none, drv.jog := none } with
      svc.replies := s.svc.replies ++ [ackFrame []] })) ∧
  (∀ (channel : Byte) (c : Chan) (s : State), s.sup.mode = .service → s.svc.programming = none → c.number = channel.toNat →
    (s.chan c).drv.jog.isSome = true → s.detected = true → (s.chan c).state = .referencing →
    (s.chan c).dem.win.map Prod.fst = some .jog → (s.chan c).src = ⟨none, none, false, none, none⟩ →
    completes (.stop channel) s (fun t => t.Follows { s.setChan c { s.chan c with
        dem.win := none, dem.pending := none, drv.jog := none } with
      svc.replies := s.svc.replies ++ [ackFrame []] })) ∧
  (∀ (bytes : List Byte) (s : State), s.sup.mode = .service → bytes ≠ [] → s.svc.rx.length + bytes.length < 3 →
    completes (.badCommandRequest bytes) s (fun t => t = { s with
      svc.rx := s.svc.rx ++ bytes, svc.rxTimer := some 50 })) ∧
  (∀ (code sum : Byte) (data : List Byte) (s : State), s.sup.mode = .service → s.svc.rx = [] → data.length < 256 →
    sumsToZero (code :: BitVec.ofNat 8 data.length :: data ++ [sum]) = false →
    completes (.badCommandRequest (code :: BitVec.ofNat 8 data.length :: data ++ [sum])) s (fun t => t = { s with
      svc.rx := [], svc.rxTimer := none, svc.replies := s.svc.replies ++ [refusedFrame .badSum] })) ∧
  (∀ (code : Byte) (data : List Byte) (s : State), s.sup.mode = .service → s.svc.rx = [] → data.length < 256 →
    code.toNat = 0 ∨ 8 < code.toNat ∨ data.length ≠ requestLengths.getD (code.toNat - 1) 0 →
    completes (.badCommandRequest (serviceFrame code data)) s (fun t => t = { s with
      svc.rx := [], svc.rxTimer := none
      svc.replies := s.svc.replies ++ [refusedFrame (if s.svc.programming.isSome then .busy else .badCommand)] })) ∧
  (∀ (r : Instr) (code : Byte) (data : List Byte) (s : State), requestOf r = some (code, data) → s.sup.mode = .service →
    s.svc.rx = [] →
    completes (.badCommandRequest (serviceFrame code data)) s (fun t => exec r { s with svc.rxTimer := none } = .next t)) ∧
  (∀ (bytes more : List Byte) (s : State),
    completes (.badCommandRequest (bytes ++ more)) s (fun t =>
      completes (.badCommandRequest bytes) s (fun u => exec (.badCommandRequest more) u = .next t)))
end

