-- ==== Sys2Proof/Laws/State.lean ====
section
/-! SUPPORT. One lemma for each field and each update of the state, so that no later proof unfolds a record update. -/

namespace Sys2Proof.Machine

open Sys2Proof

/-! ## Four values -/

@[simp] theorem Four.get_set_self {α : Type} (f : Four α) (c : Quad) (a : α) : (f.set c a).get c = a := by
  cases c <;> rfl

theorem Four.get_set_ne {α : Type} (f : Four α) {c d : Quad} (a : α) (h : d ≠ c) : (f.set c a).get d = f.get d := by
  cases c <;> cases d <;> first | rfl | exact absurd rfl h

@[simp] theorem Four.set_set {α : Type} (f : Four α) (c : Quad) (a b : α) : (f.set c a).set c b = f.set c b := by
  cases c <;> rfl

@[simp] theorem Four.set_get {α : Type} (f : Four α) (c : Quad) : f.set c (f.get c) = f := by
  cases c <;> rfl

/-! ## One channel -/

@[simp] theorem chan_setChan_self (s : State) (c : Chan) (k : Channel) : (s.setChan c k).chan c = k := by
  simp [State.setChan, State.chan]

theorem chan_setChan_ne (s : State) {c d : Chan} (k : Channel) (h : d ≠ c) : (s.setChan c k).chan d = s.chan d := by
  simp [State.setChan, State.chan, Four.get_set_ne _ _ h]

@[simp] theorem chan_modChan_self (s : State) (c : Chan) (f : Channel → Channel) :
    (s.modChan c f).chan c = f (s.chan c) := by
  simp [State.modChan]

theorem chan_modChan_ne (s : State) {c d : Chan} (f : Channel → Channel) (h : d ≠ c) :
    (s.modChan c f).chan d = s.chan d := by
  simp [State.modChan, chan_setChan_ne _ _ h]

section
variable (s : State) (c : Chan) (k : Channel) (f : Channel → Channel)

@[simp] theorem setChan_pending : (s.setChan c k).pending = s.pending := rfl
@[simp] theorem setChan_free : (s.setChan c k).free = s.free := rfl
@[simp] theorem setChan_cfg : (s.setChan c k).cfg = s.cfg := rfl
@[simp] theorem setChan_svc : (s.setChan c k).svc = s.svc := rfl
@[simp] theorem setChan_sup : (s.setChan c k).sup = s.sup := rfl
@[simp] theorem setChan_line : (s.setChan c k).line = s.line := rfl
@[simp] theorem setChan_sched : (s.setChan c k).sched = s.sched := rfl
@[simp] theorem setChan_peer : (s.setChan c k).peer = s.peer := rfl
@[simp] theorem setChan_wx : (s.setChan c k).wx = s.wx := rfl
@[simp] theorem setChan_fire : (s.setChan c k).fire = s.fire := rfl
@[simp] theorem setChan_dem : (s.setChan c k).dem = s.dem := rfl
@[simp] theorem setChan_bud : (s.setChan c k).bud = s.bud := rfl
@[simp] theorem setChan_lim : (s.setChan c k).lim = s.lim := rfl

@[simp] theorem modChan_pending : (s.modChan c f).pending = s.pending := rfl
@[simp] theorem modChan_free : (s.modChan c f).free = s.free := rfl
@[simp] theorem modChan_cfg : (s.modChan c f).cfg = s.cfg := rfl
@[simp] theorem modChan_svc : (s.modChan c f).svc = s.svc := rfl
@[simp] theorem modChan_sup : (s.modChan c f).sup = s.sup := rfl
@[simp] theorem modChan_line : (s.modChan c f).line = s.line := rfl
@[simp] theorem modChan_sched : (s.modChan c f).sched = s.sched := rfl
@[simp] theorem modChan_peer : (s.modChan c f).peer = s.peer := rfl
@[simp] theorem modChan_wx : (s.modChan c f).wx = s.wx := rfl
@[simp] theorem modChan_fire : (s.modChan c f).fire = s.fire := rfl
@[simp] theorem modChan_dem : (s.modChan c f).dem = s.dem := rfl
@[simp] theorem modChan_bud : (s.modChan c f).bud = s.bud := rfl
@[simp] theorem modChan_lim : (s.modChan c f).lim = s.lim := rfl

/-! ## The fault set -/

@[simp] theorem addFault_faults (n : Nat) : (s.addFault n).sup.faults = insertCode n s.sup.faults := rfl
@[simp] theorem addFault_line (n : Nat) : (s.addFault n).line = s.line := rfl
@[simp] theorem addFault_ch (n : Nat) : (s.addFault n).ch = s.ch := rfl
@[simp] theorem addFault_cfg (n : Nat) : (s.addFault n).cfg = s.cfg := rfl
@[simp] theorem addFault_bud (n : Nat) : (s.addFault n).bud = s.bud := rfl
@[simp] theorem addFault_fire (n : Nat) : (s.addFault n).fire = s.fire := rfl
@[simp] theorem addFault_wx (n : Nat) : (s.addFault n).wx = s.wx := rfl
@[simp] theorem addFault_mode (n : Nat) : (s.addFault n).sup.mode = s.sup.mode := rfl
@[simp] theorem addFault_bay (n : Nat) : (s.addFault n).sup.bay = s.sup.bay := rfl
@[simp] theorem addFault_low (n : Nat) : (s.addFault n).sup.low = s.sup.low := rfl
@[simp] theorem addFault_high (n : Nat) : (s.addFault n).sup.high = s.sup.high := rfl

@[simp] theorem removeFault_line (n : Nat) : (s.removeFault n).line = s.line := rfl
@[simp] theorem removeFault_ch (n : Nat) : (s.removeFault n).ch = s.ch := rfl
@[simp] theorem removeFault_cfg (n : Nat) : (s.removeFault n).cfg = s.cfg := rfl
@[simp] theorem removeFault_bud (n : Nat) : (s.removeFault n).bud = s.bud := rfl
@[simp] theorem removeFault_fire (n : Nat) : (s.removeFault n).fire = s.fire := rfl
@[simp] theorem removeFault_wx (n : Nat) : (s.removeFault n).wx = s.wx := rfl
@[simp] theorem removeFault_mode (n : Nat) : (s.removeFault n).sup.mode = s.sup.mode := rfl
@[simp] theorem removeFault_bay (n : Nat) : (s.removeFault n).sup.bay = s.sup.bay := rfl
@[simp] theorem removeFault_low (n : Nat) : (s.removeFault n).sup.low = s.sup.low := rfl
@[simp] theorem removeFault_high (n : Nat) : (s.removeFault n).sup.high = s.sup.high := rfl

@[simp] theorem clearChannelCodes_line : (s.clearChannelCodes c).line = s.line := rfl
@[simp] theorem clearChannelCodes_ch : (s.clearChannelCodes c).ch = s.ch := rfl
@[simp] theorem clearChannelCodes_chan (d : Chan) : (s.clearChannelCodes c).chan d = s.chan d := rfl
@[simp] theorem addFault_chan (n : Nat) (d : Chan) : (s.addFault n).chan d = s.chan d := rfl
@[simp] theorem removeFault_chan (n : Nat) (d : Chan) : (s.removeFault n).chan d = s.chan d := rfl
@[simp] theorem clearChannelCodes_bud : (s.clearChannelCodes c).bud = s.bud := rfl

end

/-- A code is in a list after its insertion where it was there or is the one inserted (R166). -/
theorem mem_insertCode {n a : Nat} {l : List Nat} : a ∈ insertCode n l ↔ a = n ∨ a ∈ l := by
  induction l with
  | nil => simp [insertCode]
  | cons b rest ih =>
    unfold insertCode
    split
    · simp
    · split
      · simp_all
      · simp [ih]; tauto

/-- A code is in the fault set after a removal where it was there and is not the one removed (R166). -/
@[simp] theorem mem_removeFault {s : State} {n a : Nat} :
    a ∈ (s.removeFault n).sup.faults ↔ a ∈ s.sup.faults ∧ a ≠ n := by
  simp [State.removeFault]

@[simp] theorem mem_addFault {s : State} {n a : Nat} :
    a ∈ (s.addFault n).sup.faults ↔ a = n ∨ a ∈ s.sup.faults := by
  simp [mem_insertCode]

/-! ## Operation on every channel -/

/-- What every application of an operation keeps, the operation on each channel in turn keeps. -/
theorem eachChan_keeps {β : Type} (p : State → β) (f : Chan → State → State) (h : ∀ c s, p (f c s) = p s) (s : State) :
    p (s.eachChan f) = p s := by
  simp [State.eachChan, h]

end Sys2Proof.Machine
end

