-- ==== Sys2Proof/Laws/Kept.lean ====
section
/-! SUPPORT. What the posting of demands, the budget and the end of a command leave alone: each of these operations keeps
State.kept, and so every block but the channels, the own claim, the outgoing queue, the fault set, the outputs and the record of
the last STATUS. -/

namespace Sys2Proof.Machine

open Sys2Proof

/-! ## Reading what is kept -/

theorem kept_eq {s t : State} (h : t.kept = s.kept) :
    t.pending = s.pending ∧ t.free = s.free ∧ t.cfg = s.cfg ∧ t.svc = s.svc ∧ t.peer = s.peer ∧ t.wx = s.wx ∧
      t.fire = s.fire ∧ t.dem = s.dem ∧ t.lim = s.lim ∧ t.bud.items = s.bud.items := by
  refine ⟨?_, ?_, ?_, ?_, ?_, ?_, ?_, ?_, ?_, ?_⟩
  · have h' := congrArg State.pending h; exact h'
  · have h' := congrArg State.free h; exact h'
  · have h' := congrArg State.cfg h; exact h'
  · have h' := congrArg State.svc h; exact h'
  · have h' := congrArg State.peer h; exact h'
  · have h' := congrArg State.wx h; exact h'
  · have h' := congrArg State.fire h; exact h'
  · have h' := congrArg State.dem h; exact h'
  · have h' := congrArg State.lim h; exact h'
  · have h' := congrArg (fun u : State => u.bud.items) h; exact h'

theorem kept_line {s t : State} (h : t.kept = s.kept) :
    t.line.drive = s.line.drive ∧ t.line.receiver = s.line.receiver ∧ t.line.span = s.line.span ∧
      t.line.spanLong = s.line.spanLong ∧ t.line.breakAtEnd = s.line.breakAtEnd ∧ t.line.breakTimer = s.line.breakTimer ∧
      t.line.recessive = s.line.recessive ∧ t.line.echoRun = s.line.echoRun ∧ t.line.isolation = s.line.isolation ∧
      t.line.valid = s.line.valid ∧ t.line.discard = s.line.discard ∧ t.line.dropped = s.line.dropped ∧
      t.line.pulseRequested = s.line.pulseRequested ∧ t.line.pulseEndTimer = s.line.pulseEndTimer := by
  have h' := congrArg State.line h
  simp only [State.kept, LineUnit.mk.injEq] at h'
  tauto

theorem kept_sup {s t : State} (h : t.kept = s.kept) :
    t.sup.mode = s.sup.mode ∧ t.sup.phase = s.sup.phase ∧ t.sup.bay = s.sup.bay ∧ t.sup.svcStrap = s.sup.svcStrap ∧
      t.sup.presence = s.sup.presence ∧ t.sup.low = s.sup.low ∧ t.sup.high = s.sup.high ∧
      t.sup.listenTimer = s.sup.listenTimer ∧ t.sup.lowEntry = s.sup.lowEntry ∧ t.sup.lowRecovery = s.sup.lowRecovery ∧
      t.sup.highEntry = s.sup.highEntry ∧ t.sup.highRecovery = s.sup.highRecovery := by
  have h' := congrArg State.sup h
  simp only [State.kept, Supervision.mk.injEq] at h'
  tauto

theorem kept_sched {s t : State} (h : t.kept = s.kept) :
    t.sched.fireResend = s.sched.fireResend ∧ t.sched.overrideRepeat = s.sched.overrideRepeat ∧
      t.sched.weatherPeriod = s.sched.weatherPeriod ∧ t.sched.ventilatePeriod = s.sched.ventilatePeriod ∧
      t.sched.lastVentilate = s.sched.lastVentilate ∧ t.sched.healthPeriod = s.sched.healthPeriod := by
  have h' := congrArg State.sched h
  simp only [State.kept, Schedules.mk.injEq] at h'
  tauto

theorem kept_faults {s t : State} (h : t.kept = s.kept) {n : Nat} (hn : stationCode n = true) :
    n ∈ t.sup.faults ↔ n ∈ s.sup.faults := by
  have h' := congrArg (fun u : State => u.sup.faults) h
  have h'' : n ∈ t.sup.faults.filter stationCode ↔ n ∈ s.sup.faults.filter stationCode := by
    rw [show t.sup.faults.filter stationCode = s.sup.faults.filter stationCode from h']
  simpa [hn] using h''

theorem kept_queue {s t : State} (h : t.kept = s.kept) :
    t.line.queue.filter (fun e => e.notice.scheduled) = s.line.queue.filter (fun e => e.notice.scheduled) := by
  have h' := congrArg (fun u : State => u.line.queue) h
  exact h'

theorem kept_flight {s t : State} (h : t.kept = s.kept) :
    t.line.flight.map Flight.content = s.line.flight.map Flight.content ∧
      t.line.flight.map Flight.frame = s.line.flight.map Flight.frame := by
  have h' : t.line.flight.map (fun f => { f with replaced := false }) =
      s.line.flight.map (fun f => { f with replaced := false }) := congrArg (fun u : State => u.line.flight) h
  have h1 := congrArg (fun o => o.map Flight.content) h'
  have h2 := congrArg (fun o => o.map Flight.frame) h'
  simp only [Option.map_map] at h1 h2
  exact ⟨h1, h2⟩

/-! ## Lists of codes and of entries -/

theorem filter_insertCode {p : Nat → Bool} {n : Nat} (hn : p n = false) (l : List Nat) :
    (insertCode n l).filter p = l.filter p := by
  induction l with
  | nil => simp [insertCode, hn]
  | cons a rest ih =>
    unfold insertCode
    split
    · simp [List.filter_cons, hn]
    · split
      · rfl
      · simp [List.filter_cons, ih]

theorem channelCode_not_station (c : Chan) (k : Cause) : stationCode (channelCode c k.value) = false := by
  cases c <;> cases k <;> rfl

theorem filter_clearChannel (c : Chan) (l : List Nat) :
    (l.filter (fun a => decide (a < channelCode c 0) || decide (channelCode c 4 < a))).filter stationCode =
      l.filter stationCode := by
  rw [List.filter_filter]
  congr 1
  funext a
  cases c <;> simp only [stationCode, channelCode, Quad.number] <;> grind

theorem filter_enqueue {p : QueueEntry → Bool} {e : QueueEntry} (he : p e = false) (q : List QueueEntry) :
    (enqueue q e).filter p = q.filter p := by
  unfold enqueue
  simp only [List.filter_append, List.filter_cons, he, Bool.false_eq_true, if_false]
  rw [← List.filter_append, List.takeWhile_append_dropWhile]

/-- Two notices of one key are of one kind. -/
theorem kind_of_key {m n : Notice} (h : m.key = n.key) : m.kind = n.kind := by
  cases m <;> cases n <;> simp_all [Notice.key, Notice.kind]

theorem scheduled_of_key {m n : Notice} (h : m.key = n.key) : m.scheduled = n.scheduled := by
  unfold Notice.scheduled
  rw [kind_of_key h]

theorem filter_replace {n : Notice} (hn : n.scheduled = false) (q : List QueueEntry) :
    (q.map (replaceEntry n)).filter (fun e => e.notice.scheduled) = q.filter (fun e => e.notice.scheduled) := by
  induction q with
  | nil => rfl
  | cons a rest ih =>
    by_cases h : a.notice.key = n.key
    · have ha : a.notice.scheduled = false := by rw [scheduled_of_key h, hn]
      simp [replaceEntry, h, hn, ha, ih]
    · simp [List.filter_cons, replaceEntry, h, ih]

theorem filter_withdrawClaim (q : List QueueEntry) :
    (q.filter (fun e => !decide (e.notice.key = (Kind.claim, none)))).filter (fun e => e.notice.scheduled) =
      q.filter (fun e => e.notice.scheduled) := by
  rw [List.filter_filter]
  congr 1
  funext e
  cases e.notice <;> simp [Notice.scheduled, Notice.key, Notice.kind]

/-! ## Ops and Flags -/

section
variable (s : State) (c : Chan)

@[simp] theorem setChan_kept (k : Channel) : (s.setChan c k).kept = s.kept := rfl
@[simp] theorem modChan_kept (f : Channel → Channel) : (s.modChan c f).kept = s.kept := rfl

@[simp] theorem addChannelFault_kept (k : Cause) : (s.addFault (channelCode c k.value)).kept = s.kept := by
  simp only [State.kept, State.addFault, filter_insertCode (channelCode_not_station c k)]

@[simp] theorem clearChannelCodes_kept : (s.clearChannelCodes c).kept = s.kept := by
  simp only [State.kept, State.clearChannelCodes, filter_clearChannel]

@[simp] theorem testBreak_kept : s.testBreak.kept = s.kept := by
  unfold State.testBreak; split <;> rfl

/-- A CLAIM or a STATUS is queued. -/
theorem queueNotice_kept (n : Notice) (hn : n.scheduled = false) : (s.queueNotice n).kept = s.kept := by
  unfold State.queueNotice
  simp only [testBreak_kept]
  split
  · simp only [State.kept, filter_replace hn, Option.map_map]
    congr 2
    cases s.line.flight <;> simp
    split <;> exact ⟨rfl, rfl⟩
  · simp only [State.kept, filter_enqueue (e := ⟨n, 0, false⟩) (p := fun e => e.notice.scheduled) hn]

@[simp] theorem withdrawClaim_kept : (s.withdraw (.claim, none)).kept = s.kept := by
  unfold State.withdraw
  split
  · rfl
  · simp only [State.kept, filter_withdrawClaim]

@[simp] theorem refreshOutputs_kept : s.refreshOutputs.kept = s.kept := rfl

@[simp] theorem queueStatus_kept : s.queueStatus.kept = s.kept := by
  unfold State.queueStatus
  have h := queueNotice_kept s (.status s.statusContent) rfl
  simp only [State.kept] at h ⊢
  exact h

@[simp] theorem statusOnChange_kept : s.statusOnChange.kept = s.kept := by
  unfold State.statusOnChange
  repeat' split
  all_goals simp

/-! ## Posting -/

@[simp] theorem dropClaim_kept : s.dropClaim.kept = s.kept := by
  unfold State.dropClaim
  split
  · rfl
  · have h := withdrawClaim_kept s
    simp only [State.kept] at h ⊢
    split
    · exact h
    · rfl

@[simp] theorem giveUpClaims_kept : s.giveUpClaims.kept = s.kept := by simp [State.giveUpClaims]

@[simp] theorem leaveClaim_kept : (s.leaveClaim c).kept = s.kept := by
  unfold State.leaveClaim
  simp only
  repeat' split
  all_goals first | exact dropClaim_kept s | rfl

@[simp] theorem formReference_kept (w : Winner) : (s.formReference c w).kept = s.kept := rfl

@[simp] theorem testReference_kept : (s.testReference c).kept = s.kept := by
  unfold State.testReference; simp only; split <;> simp

@[simp] theorem takeAtRest_kept (w : Winner) : (s.takeAtRest c w).kept = s.kept := by
  unfold State.takeAtRest
  repeat' split
  all_goals simp

@[simp] theorem withdrawChan_kept : (s.withdrawChan c).kept = s.kept := by simp [State.withdrawChan]

@[simp] theorem replaceOrdinary_kept (w : Winner) : (s.replaceOrdinary c w).kept = s.kept := by
  unfold State.replaceOrdinary
  repeat' split
  all_goals simp

@[simp] theorem takeWaiting_kept (w : Winner) : (s.takeWaiting c w).kept = s.kept := by
  unfold State.takeWaiting State.takeWaitingReferenced State.takeWaitingUnreferenced
  repeat' split
  all_goals simp

@[simp] theorem setWinner_kept : (s.setWinner c).kept = s.kept := rfl

@[simp] theorem complete_kept (e : Option Extreme) : (s.complete c e).kept = s.kept := by
  simp [State.complete]

@[simp] theorem stopToRest_kept : (s.stopToRest c).kept = s.kept := by simp [State.stopToRest]

@[simp] theorem stopToReverse_kept (t : Nat) : (s.stopToReverse c t).kept = s.kept := rfl

@[simp] theorem takeRunning_kept (w : Winner) : (s.takeRunning c w).kept = s.kept := by
  unfold State.takeRunning
  repeat' split
  all_goals simp

@[simp] theorem stopReference_kept (w : Winner) : (s.stopReference c w).kept = s.kept := by
  unfold State.stopReference
  repeat' split
  all_goals simp

@[simp] theorem takeReferencing_kept (w : Winner) : (s.takeReferencing c w).kept = s.kept := by
  unfold State.takeReferencing
  repeat' split
  all_goals simp

@[simp] theorem takeReversing_kept (w : Winner) : (s.takeReversing c w).kept = s.kept := rfl

@[simp] theorem takeFaulted_kept (w : Winner) : (s.takeFaulted c w).kept = s.kept := by
  unfold State.takeFaulted
  split <;> simp

@[simp] theorem take_kept (w : Winner) : (s.take c w).kept = s.kept := by
  unfold State.take
  split <;> simp

@[simp] theorem recompute_kept : (s.recompute c).kept = s.kept := by
  unfold State.recompute
  repeat' split
  all_goals simp

@[simp] theorem handOver_kept (f : Sources → Sources) : (s.handOver c f).kept = s.kept := by
  unfold State.handOver
  split <;> simp

@[simp] theorem settleChan_kept : (s.settleChan c).kept = s.kept := by simp [State.settleChan]

@[simp] theorem startChan_kept : (s.startChan c).kept = s.kept := by
  unfold State.startChan
  split
  · simp only
    split <;> simp
  · rfl

@[simp] theorem reachEnd_kept (e : Extreme) : (s.reachEnd c e).kept = s.kept := by
  unfold State.reachEnd
  simp only
  split <;> simp

@[simp] theorem reachReference_kept : (s.reachReference c).kept = s.kept := by simp [State.reachReference]

@[simp] theorem channelFault_kept (k : Cause) : (s.channelFault c k).kept = s.kept := by
  simp [State.channelFault]

@[simp] theorem endJog_kept : (s.endJog c).kept = s.kept := by simp [State.endJog]

@[simp] theorem retryChan_kept : (s.retryChan c).kept = s.kept := by
  unfold State.retryChan
  simp only
  split <;> simp

/-! ## The budget and the end of a command -/

@[simp] theorem formClaim_kept : s.formClaim.kept = s.kept := by
  unfold State.formClaim
  rw [queueNotice_kept _ _ rfl]
  rfl

@[simp] theorem formationTest_kept : s.formationTest.kept = s.kept := by
  unfold State.formationTest; split <;> simp

@[simp] theorem supersede_kept : s.supersede.kept = s.kept := by
  unfold State.supersede; split <;> simp

@[simp] theorem startIfIn_kept (set : Four Bool) : (s.startIfIn set c).kept = s.kept := by
  unfold State.startIfIn; split <;> simp

@[simp] theorem grant_kept : s.grant.kept = s.kept := by
  unfold State.grant
  rw [eachChan_keeps State.kept _ (fun c s => startIfIn_kept s c _)]
  rfl

@[simp] theorem decideClaim_kept : s.decideClaim.kept = s.kept := by
  unfold State.decideClaim
  generalize (if s.bud.own.fire then s.fireTest else s.nonFireTest) = b
  split
  · simp
  · rfl

@[simp] theorem reCheck_kept : s.reCheck.kept = s.kept := by
  unfold State.reCheck; split <;> simp

@[simp] theorem reCheckOnFall_kept (s0 : State) : (s.reCheckOnFall s0).kept = s.kept := by
  unfold State.reCheckOnFall; split <;> simp

@[simp] theorem isolatedSlot_kept : s.isolatedSlot.kept = s.kept := by
  unfold State.isolatedSlot
  repeat' split
  all_goals first | rfl | (simp only [startChan_kept]; rfl)

/-- The end of a command keeps everything that is set aside from the kept part (log entry 11). -/
@[simp] theorem finish_kept (s0 : State) : (s.finish s0).kept = s.kept := by simp [State.finish]

@[simp] theorem setIsolatedTimer_kept : s.setIsolatedTimer.kept = s.kept := rfl
@[simp] theorem stopIsolatedTimer_kept : s.stopIsolatedTimer.kept = s.kept := rfl

/-! ## The vetoes -/

@[simp] theorem withdrawReference_kept (w : Winner) : (s.withdrawReference c w).kept = s.kept := by
  simp [State.withdrawReference]

@[simp] theorem vetoReference_kept : (s.vetoReference c).kept = s.kept := by
  unfold State.vetoReference
  repeat' split
  all_goals simp

@[simp] theorem evalLimit_kept : (s.evalLimit c).kept = s.kept := by
  unfold State.evalLimit
  simp only
  repeat' split
  all_goals simp

@[simp] theorem beginSupplyVeto_kept : s.beginSupplyVeto.kept = s.kept := by
  unfold State.beginSupplyVeto
  rw [giveUpClaims_kept, eachChan_keeps State.kept _ (fun c s => modChan_kept s c _)]

@[simp] theorem heldRetry_kept : (s.heldRetry c).kept = s.kept := by
  unfold State.heldRetry; split <;> simp

@[simp] theorem resume_kept : (s.resume c).kept = s.kept := by
  unfold State.resume
  simp only
  repeat' split
  all_goals simp

@[simp] theorem endSupplyVeto_kept : s.endSupplyVeto.kept = s.kept :=
  eachChan_keeps State.kept _ (fun c s => resume_kept s c) s

/-! ## Fire, weather, keys: what follows a change of a source -/

@[simp] theorem handFire_kept : (s.handFire c).kept = s.kept := by
  unfold State.handFire; split <;> simp

@[simp] theorem refreshFireChan_kept : (s.refreshFireChan c).kept = s.kept := by
  unfold State.refreshFireChan
  split <;> simp

@[simp] theorem refreshFire_kept : s.refreshFire.kept = s.kept :=
  eachChan_keeps State.kept _ (fun c s => refreshFireChan_kept s c) s

@[simp] theorem handVentilate_kept : (s.handVentilate c).kept = s.kept := by
  unfold State.handVentilate; split <;> simp

@[simp] theorem handLocal_kept : (s.handLocal c).kept = s.kept := by
  unfold State.handLocal; split <;> simp

@[simp] theorem handWeather_kept : (s.handWeather c).kept = s.kept := by
  unfold State.handWeather; split <;> simp

@[simp] theorem refreshWind_kept : (s.refreshWind c).kept = s.kept := by
  unfold State.refreshWind; split <;> simp

end

/-- A map of origins, an atrium record and a list of overrides are the only kept things that their setters change. -/
theorem setVentMap_kept (s : State) (m : List VentOrigin) :
    (s.setVentMap m).kept = { s with dem.ventMap := m }.kept :=
  eachChan_keeps State.kept _ (fun c s => handVentilate_kept s c) _

theorem setAtrium_kept (s : State) (r : Atrium) :
    (s.setAtrium r).kept = ({ s with wx.atrium := r }.faultIf 10 r.unknown).kept := by
  unfold State.setAtrium
  simp only
  rw [eachChan_keeps State.kept _ (fun c s => (handWeather_kept _ c).trans (refreshWind_kept s c))]

theorem setOverrides_kept (s : State) (l : List OverrideOrigin) :
    (s.setOverrides l).kept = { s with fire.overrides := l }.kept := by
  unfold State.setOverrides
  simp only
  split
  · rfl
  · rw [eachChan_keeps State.kept _ (fun c s => handOver_kept s c _)]

/-- Items that leave the start list are the only kept thing that their removal changes, and a peer's CLAIM leaves in the list what the
three steps of R111 do. -/
theorem removeItems_kept (s : State) (gone rest : List StartItem) :
    (s.removeItems gone rest).kept = { s with bud.items := rest }.kept := by
  have e : (State.endIfOwnItemGone { s with bud.items := rest } s.bud.items).kept = { s with bud.items := rest }.kept := by
    unfold State.endIfOwnItemGone; split <;> rfl
  unfold State.removeItems
  simp only
  split
  · rw [reCheck_kept, e]
  · exact e

theorem removeItems_items (s : State) (gone rest : List StartItem) : (s.removeItems gone rest).bud.items = rest :=
  congrArg (·.bud.items) (removeItems_kept s gone rest)

theorem takeClaim_items (s : State) (bay : Nat) (set : Four Bool) (inrush : Nat) (fire : Bool) :
    (s.takeClaim bay set inrush fire).bud.items = makeRoom (withoutBay bay s.bud.items) ++ [⟨bay, set, inrush, fire, 0⟩] := by
  unfold State.takeClaim State.append State.removeOldest makeRoom
  simp only
  rw [show (s.removeBay bay).bud.items = withoutBay bay s.bud.items from removeItems_items s _ _]
  split
  · rw [removeItems_items]
  · rw [show (s.removeBay bay).bud.items = withoutBay bay s.bud.items from removeItems_items s _ _]

theorem startGeneral_kept (s : State) : s.startGeneral.kept = { s with fire.generalTimer := some 30000 }.kept := by
  simp [State.startGeneral]

end Sys2Proof.Machine
end

