-- ==== Sys2Proof/Laws/Local.lean ====
section
/-! SUPPORT. Which channels an operation touches: the posting of one channel's demand leaves the other channels alone, and the end of
a command leaves every channel alone that does not wait; what a stopped reference run makes of a target. -/

namespace Sys2Proof.Machine

open Sys2Proof

section
variable (s : State) {c d : Chan}

/-! ## Operations that touch no channel -/

@[simp] theorem queueNotice_ch (n : Notice) : (s.queueNotice n).ch = s.ch := by
  unfold State.queueNotice State.testBreak
  simp only
  repeat' split
  all_goals rfl

@[simp] theorem withdraw_ch (key : Kind × Option Zone) : (s.withdraw key).ch = s.ch := by
  unfold State.withdraw; split <;> rfl

@[simp] theorem dropClaim_ch : s.dropClaim.ch = s.ch := by
  unfold State.dropClaim
  simp only
  repeat' split
  all_goals simp

@[simp] theorem giveUpClaims_ch : s.giveUpClaims.ch = s.ch := by simp [State.giveUpClaims]

@[simp] theorem leaveClaim_ch (c : Chan) : (s.leaveClaim c).ch = s.ch := by
  unfold State.leaveClaim
  simp only
  repeat' split
  all_goals simp

@[simp] theorem formClaim_ch : s.formClaim.ch = s.ch := by simp [State.formClaim]

@[simp] theorem formationTest_ch : s.formationTest.ch = s.ch := by
  unfold State.formationTest; split <;> simp

@[simp] theorem supersede_ch : s.supersede.ch = s.ch := by
  unfold State.supersede; split <;> simp

@[simp] theorem queueStatus_ch : s.queueStatus.ch = s.ch := by simp [State.queueStatus]

@[simp] theorem statusOnChange_ch : s.statusOnChange.ch = s.ch := by
  unfold State.statusOnChange
  repeat' split
  all_goals simp

@[simp] theorem refreshOutputs_ch : s.refreshOutputs.ch = s.ch := rfl

theorem chan_of_ch {s t : State} (h : t.ch = s.ch) (d : Chan) : t.chan d = s.chan d := by simp [State.chan, h]

@[simp] theorem leaveClaim_chan (c d : Chan) : (s.leaveClaim c).chan d = s.chan d := chan_of_ch (leaveClaim_ch s c) d

@[simp] theorem dropClaim_chan (d : Chan) : s.dropClaim.chan d = s.chan d := chan_of_ch (dropClaim_ch s) d

@[simp] theorem giveUpClaims_chan (d : Chan) : s.giveUpClaims.chan d = s.chan d := chan_of_ch (giveUpClaims_ch s) d

/-! ## Posting on one channel leaves the others alone -/

theorem formReference_other (w : Winner) (h : d ≠ c) : (s.formReference c w).chan d = s.chan d :=
  chan_modChan_ne s _ h

theorem testReference_other (h : d ≠ c) : (s.testReference c).chan d = s.chan d := by
  unfold State.testReference
  simp only
  split
  · exact formReference_other s _ h
  · rfl

theorem takeAtRest_other (w : Winner) (h : d ≠ c) : (s.takeAtRest c w).chan d = s.chan d := by
  unfold State.takeAtRest
  repeat' split
  all_goals first | rfl | exact formReference_other s _ h | exact chan_modChan_ne s _ h

theorem withdrawChan_other (h : d ≠ c) : (s.withdrawChan c).chan d = s.chan d := by
  unfold State.withdrawChan
  rw [testReference_other _ h, leaveClaim_chan, chan_modChan_ne s _ h]

theorem replaceOrdinary_other (w : Winner) (h : d ≠ c) : (s.replaceOrdinary c w).chan d = s.chan d := by
  unfold State.replaceOrdinary
  repeat' split
  all_goals first | exact chan_modChan_ne s _ h | exact withdrawChan_other s h

theorem takeWaiting_other (w : Winner) (h : d ≠ c) : (s.takeWaiting c w).chan d = s.chan d := by
  unfold State.takeWaiting State.takeWaitingReferenced State.takeWaitingUnreferenced
  repeat' split
  all_goals first
    | rfl | exact chan_modChan_ne s _ h | exact withdrawChan_other s h | exact replaceOrdinary_other s _ h

theorem complete_other (e : Option Extreme) (h : d ≠ c) : (s.complete c e).chan d = s.chan d := by
  simp [State.complete, chan_modChan_ne s _ h]

theorem stopToRest_other (h : d ≠ c) : (s.stopToRest c).chan d = s.chan d := by
  unfold State.stopToRest
  rw [testReference_other _ h, chan_modChan_ne s _ h]

theorem stopToReverse_other (t : Nat) (h : d ≠ c) : (s.stopToReverse c t).chan d = s.chan d :=
  chan_modChan_ne s _ h

theorem takeRunning_other (w : Winner) (h : d ≠ c) : (s.takeRunning c w).chan d = s.chan d := by
  unfold State.takeRunning
  split
  · split
    · exact chan_modChan_ne s _ h
    · split
      · rw [testReference_other _ h, State.setWinner, chan_modChan_ne _ _ h, complete_other s _ h]
      · exact stopToReverse_other s _ h
  · exact stopToRest_other s h

/-- A target is ahead of a closing drive by its stop test (R101). -/
theorem aheadClosing_iff (k : Channel) (stroke t : Nat) :
    k.aheadClosing stroke t = true ↔ t = 0 ∨ lowerStop stroke t < k.drv.count := by simp [Channel.aheadClosing]

/-- A stopped reference run reverses for a target that needs the channel to open (R105). -/
theorem stopReference_of_opening (src : Source) (t : Nat) (h : s.needsOpening c (some (src, .pos t)) t = true) :
    s.stopReference c (some (src, .pos t)) = s.stopToReverse c t := by simp [State.stopReference, h]

/-- A stopped reference run of a referenced channel rests for a target that is neither ahead nor needs it to open (R101, R105). -/
theorem stopReference_of_reached (src : Source) (t : Nat) (h : s.needsOpening c (some (src, .pos t)) t = false)
    (hr : (s.chan c).drv.referenced = true) (hk : s.strokeKnown c = true) (ha : (s.chan c).aheadClosing (s.stroke c) t = false) :
    s.stopReference c (some (src, .pos t)) = s.stopToRest c := by simp [State.stopReference, h, hr, hk, ha]

/-- A stopped reference run takes a target that is ahead of a closing drive as at rest (R99, R105). -/
theorem stopReference_of_ahead (src : Source) (t : Nat) (h : s.needsOpening c (some (src, .pos t)) t = false)
    (ha : (s.chan c).aheadClosing (s.stroke c) t = true) :
    s.stopReference c (some (src, .pos t)) = (s.modChan c (fun k => k.release.toRest)).takeAtRest c (some (src, .pos t)) := by
  simp [State.stopReference, h, ha]

theorem stopReference_other (w : Winner) (h : d ≠ c) : (s.stopReference c w).chan d = s.chan d := by
  unfold State.stopReference
  repeat' split
  all_goals first
    | exact stopToRest_other s h | exact stopToReverse_other s _ h
    | rw [takeAtRest_other _ _ h, chan_modChan_ne s _ h]

theorem takeReferencing_other (w : Winner) (h : d ≠ c) : (s.takeReferencing c w).chan d = s.chan d := by
  unfold State.takeReferencing
  repeat' split
  all_goals first | rfl | exact stopReference_other s _ h | exact chan_modChan_ne s _ h

theorem takeFaulted_other (w : Winner) (h : d ≠ c) : (s.takeFaulted c w).chan d = s.chan d := by
  unfold State.takeFaulted
  split
  · rw [takeAtRest_other _ _ h, chan_modChan_ne s _ h]
  · exact chan_modChan_ne s _ h

theorem take_other (w : Winner) (h : d ≠ c) : (s.take c w).chan d = s.chan d := by
  unfold State.take
  split
  · rfl
  · exact takeAtRest_other s _ h
  · exact takeAtRest_other s _ h
  · exact takeWaiting_other s _ h
  · exact takeRunning_other s _ h
  · exact chan_modChan_ne s _ h
  · exact takeReferencing_other s _ h
  · exact takeFaulted_other s _ h

theorem recompute_other (h : d ≠ c) : (s.recompute c).chan d = s.chan d := by
  unfold State.recompute
  repeat' split
  · rfl
  · rfl
  · rw [take_other _ _ h]; exact chan_modChan_ne s _ h
  · exact chan_modChan_ne s _ h

theorem handOver_other (f : Sources → Sources) (h : d ≠ c) : (s.handOver c f).chan d = s.chan d := by
  unfold State.handOver
  split
  · rfl
  · rw [recompute_other _ h, chan_modChan_ne s _ h]

theorem settleChan_other (h : d ≠ c) : (s.settleChan c).chan d = s.chan d := by
  unfold State.settleChan
  rw [testReference_other _ h, recompute_other _ h]

theorem startChan_other (h : d ≠ c) : (s.startChan c).chan d = s.chan d := by
  unfold State.startChan
  split
  · simp only
    split
    · rw [settleChan_other _ h, complete_other _ _ h, chan_modChan_ne s _ h]
    · exact chan_modChan_ne s _ h
  · rfl

theorem reachEnd_other (e : Extreme) (h : d ≠ c) : (s.reachEnd c e).chan d = s.chan d := by
  unfold State.reachEnd
  simp only
  split
  · rw [settleChan_other _ h, complete_other _ _ h, chan_modChan_ne s _ h]
  · rw [takeAtRest_other _ _ h, State.setWinner, chan_modChan_ne _ _ h, chan_modChan_ne _ _ h, chan_modChan_ne s _ h]

theorem reachReference_other (h : d ≠ c) : (s.reachReference c).chan d = s.chan d := by
  unfold State.reachReference
  simp only
  rw [takeAtRest_other _ _ h, State.setWinner, chan_modChan_ne _ _ h, clearChannelCodes_chan, chan_modChan_ne s _ h]

theorem channelFault_other (k : Cause) (h : d ≠ c) : (s.channelFault c k).chan d = s.chan d := by
  unfold State.channelFault
  simp only
  rw [chan_modChan_ne _ _ h, State.setWinner, chan_modChan_ne _ _ h, addFault_chan, chan_modChan_ne s _ h]

theorem endJog_other (h : d ≠ c) : (s.endJog c).chan d = s.chan d := by
  rw [State.endJog, recompute_other _ h, chan_modChan_ne s _ h]

theorem retryChan_other (h : d ≠ c) : (s.retryChan c).chan d = s.chan d := by
  unfold State.retryChan
  simp only
  split
  · rw [chan_modChan_ne _ _ h, takeAtRest_other _ _ h, chan_modChan_ne s _ h]
  · rw [takeAtRest_other _ _ h, chan_modChan_ne s _ h]

theorem vetoReference_other (h : d ≠ c) : (s.vetoReference c).chan d = s.chan d := by
  unfold State.vetoReference
  split
  · split
    · rw [State.withdrawReference, takeAtRest_other _ _ h, leaveClaim_chan, chan_modChan_ne _ _ h, State.setWinner,
        chan_modChan_ne s _ h]
    · rw [takeWaiting_other _ _ h, State.setWinner, chan_modChan_ne s _ h]
  · rw [stopReference_other _ _ h, State.setWinner, chan_modChan_ne s _ h]
  · exact recompute_other s h

theorem evalLimit_other (h : d ≠ c) : (s.evalLimit c).chan d = s.chan d := by
  unfold State.evalLimit
  simp only
  repeat' split
  · rfl
  · exact chan_modChan_ne s _ h
  · rw [vetoReference_other _ h, chan_modChan_ne s _ h]
  · rw [testReference_other _ h, recompute_other _ h, chan_modChan_ne s _ h]

/-! ## Starts leave alone what does not wait -/

/-- A channel that does not wait is not started (R130). -/
theorem startChan_not_waiting (h : (s.chan c).state ≠ .waiting) : s.startChan c = s := by
  unfold State.startChan
  split
  · rename_i h1 _
    exact absurd h1 h
  · rfl

theorem startChan_chan (c : Chan) (h : (s.chan d).state ≠ .waiting) : (s.startChan c).chan d = s.chan d := by
  by_cases hd : d = c
  · subst hd
    rw [startChan_not_waiting s h]
  · exact startChan_other s hd

theorem startIfIn_chan (set : Four Bool) (c : Chan) (h : (s.chan d).state ≠ .waiting) :
    (s.startIfIn set c).chan d = s.chan d := by
  unfold State.startIfIn
  split
  · exact startChan_chan s c h
  · rfl

end

section
variable {s : State} {d : Chan}

/-- An operation on every channel in turn, each of which leaves a channel alone while it does not wait. -/
theorem eachChan_chan (f : Chan → State → State)
    (hf : ∀ c (u : State), (u.chan d).state ≠ .waiting → (f c u).chan d = u.chan d)
    (h : (s.chan d).state ≠ .waiting) : (s.eachChan f).chan d = s.chan d := by
  unfold State.eachChan
  have h1 := hf .one s h
  have h2 := hf .two (f .one s) (by rw [h1]; exact h)
  have h3 := hf .three (f .two (f .one s)) (by rw [h2, h1]; exact h)
  have h4 := hf .four (f .three (f .two (f .one s))) (by rw [h3, h2, h1]; exact h)
  rw [h4, h3, h2, h1]

theorem grant_chan (h : (s.chan d).state ≠ .waiting) : s.grant.chan d = s.chan d := by
  unfold State.grant
  exact eachChan_chan (s := { s with bud.own := OwnClaim.none, bud.settleTimer := none }) _
    (fun c u hu => startIfIn_chan u _ c hu) h

theorem decideClaim_chan (h : (s.chan d).state ≠ .waiting) : s.decideClaim.chan d = s.chan d := by
  unfold State.decideClaim
  generalize (if s.bud.own.fire then s.fireTest else s.nonFireTest) = b
  split
  · exact grant_chan h
  · rfl

theorem reCheck_chan (h : (s.chan d).state ≠ .waiting) : s.reCheck.chan d = s.chan d := by
  unfold State.reCheck
  split
  · exact decideClaim_chan h
  · rfl

theorem reCheckOnFall_chan (s0 : State) (h : (s.chan d).state ≠ .waiting) : (s.reCheckOnFall s0).chan d = s.chan d := by
  unfold State.reCheckOnFall
  split
  · exact reCheck_chan h
  · rfl

theorem isolatedSlot_chan (h : (s.chan d).state ≠ .waiting) : s.isolatedSlot.chan d = s.chan d := by
  unfold State.isolatedSlot
  split
  · split
    · rename_i c _
      exact startChan_chan { s with bud.isoOpen := false, bud.isoTimer := some 2000, bud.lastIso := some 0 } c h
    · rfl
  · rfl

/-- The end of a command leaves a channel alone that does not wait (log entry 11). -/
theorem finish_chan (s0 : State) (h : (s.chan d).state ≠ .waiting) : (s.finish s0).chan d = s.chan d := by
  unfold State.finish
  have h1 : s.supersede.chan d = s.chan d := chan_of_ch (supersede_ch s) d
  have h2 := reCheckOnFall_chan s0 (s := s.supersede) (d := d) (by rw [h1]; exact h)
  have h3 : (s.supersede.reCheckOnFall s0).formationTest.chan d = (s.supersede.reCheckOnFall s0).chan d :=
    chan_of_ch (formationTest_ch _) d
  have h4 := isolatedSlot_chan (s := (s.supersede.reCheckOnFall s0).formationTest) (d := d)
    (by rw [h3, h2, h1]; exact h)
  have h5 : ((s.supersede.reCheckOnFall s0).formationTest.isolatedSlot.statusOnChange.refreshOutputs).chan d =
      ((s.supersede.reCheckOnFall s0).formationTest.isolatedSlot).chan d :=
    chan_of_ch ((refreshOutputs_ch _).trans (statusOnChange_ch _)) d
  rw [h5, h4, h3, h2, h1]

end

end Sys2Proof.Machine
end

