-- ==== Sys2Proof/Laws/Alike.lean ====
section
/-! SUPPORT. What the posting rules and a start do to a channel depends on that channel, the configuration, the phase and the supply
alone. -/

namespace Sys2Proof.Machine

open Sys2Proof

/-- What the posting rules read beside the channel. -/
def State.settings (s : State) : ConfigStore × Phase × Bool × Bool := (s.cfg, s.sup.phase, s.sup.low, s.sup.high)

/-- Two states that agree in a channel and in the settings. -/
structure Alike (s t : State) (c : Chan) : Prop where
  settings : s.settings = t.settings
  chan : s.chan c = t.chan c

theorem settings_of_kept {s t : State} (h : s.kept = t.kept) : s.settings = t.settings := by
  have h1 := (kept_eq h).2.2.1
  have h2 := kept_sup h
  unfold State.settings
  rw [h1, h2.2.1, h2.2.2.2.2.2.1, h2.2.2.2.2.2.2.1]

section
variable {s t : State} {c : Chan} (h : Alike s t c)
include h

theorem Alike.cfg : s.cfg = t.cfg := congrArg (·.1) h.settings
theorem Alike.detected : s.detected = t.detected := by
  have : s.sup.phase = t.sup.phase := congrArg (·.2.1) h.settings
  unfold State.detected; rw [this]
theorem Alike.veto : s.supplyVeto = t.supplyVeto := by
  have h1 : s.sup.low = t.sup.low := congrArg (·.2.2.1) h.settings
  have h2 : s.sup.high = t.sup.high := congrArg (·.2.2.2) h.settings
  unfold State.supplyVeto; rw [h1, h2]
theorem Alike.chFields : s.chFields c = t.chFields c := by unfold State.chFields State.fields; rw [h.cfg]
theorem Alike.known : s.strokeKnown c = t.strokeKnown c := by unfold State.strokeKnown; rw [h.chFields]
theorem Alike.stroke : s.stroke c = t.stroke c := by unfold State.stroke; rw [h.chFields]
theorem Alike.position : s.position c = t.position c := by unfold State.position; rw [h.chan, h.stroke]
theorem Alike.winner : s.winner c = t.winner c := by unfold State.winner; rw [h.veto, h.chan, h.known]
theorem Alike.refStarts (w : Winner) : s.refStarts c w = t.refStarts c w := by
  unfold State.refStarts; rw [h.chan, h.veto]
theorem Alike.callsMovement (n : Nat) : s.callsMovement c n = t.callsMovement c n := by
  unfold State.callsMovement; rw [h.known, h.position, h.chan]
theorem Alike.withinDeadband (n : Nat) : s.withinDeadband c n = t.withinDeadband c n := by
  unfold State.withinDeadband; rw [h.known, h.position, h.chan]
theorem Alike.needsOpening (w : Winner) (n : Nat) : s.needsOpening c w n = t.needsOpening c w n := by
  unfold State.needsOpening; rw [h.known, h.position, h.chan]

theorem Alike.modChan {f g : Channel → Channel} (hf : f (t.chan c) = g (t.chan c)) :
    Alike (s.modChan c f) (t.modChan c g) c :=
  ⟨h.settings, by rw [chan_modChan_self, chan_modChan_self, h.chan, hf]⟩

theorem Alike.leaveClaim : Alike (s.leaveClaim c) (t.leaveClaim c) c :=
  ⟨(settings_of_kept (leaveClaim_kept s c)).trans (h.settings.trans (settings_of_kept (leaveClaim_kept t c)).symm),
    by rw [leaveClaim_chan, leaveClaim_chan, h.chan]⟩

theorem Alike.clearChannelCodes : Alike (s.clearChannelCodes c) (t.clearChannelCodes c) c :=
  ⟨h.settings, by rw [clearChannelCodes_chan, clearChannelCodes_chan, h.chan]⟩

theorem Alike.formReference (w : Winner) : Alike (s.formReference c w) (t.formReference c w) c := h.modChan rfl

theorem Alike.testReference : Alike (s.testReference c) (t.testReference c) c := by
  unfold State.testReference
  simp only
  rw [h.refStarts, h.chan]
  split
  · exact h.formReference _
  · exact h

theorem Alike.takeAtRest (w : Winner) : Alike (s.takeAtRest c w) (t.takeAtRest c w) c := by
  unfold State.takeAtRest
  rw [h.refStarts, h.chan]
  split
  · exact h.formReference w
  · split
    · rename_i n _ _
      rw [h.callsMovement n]
      split
      · exact h.modChan rfl
      · exact h
    · split
      · exact h.modChan rfl
      · exact h
    · exact h

theorem Alike.withdrawChan : Alike (s.withdrawChan c) (t.withdrawChan c) c :=
  (Alike.leaveClaim (h.modChan rfl)).testReference

theorem Alike.replaceOrdinary (w : Winner) : Alike (s.replaceOrdinary c w) (t.replaceOrdinary c w) c := by
  unfold State.replaceOrdinary
  split
  · rename_i n
    rw [h.callsMovement n]
    split
    · exact h.modChan rfl
    · exact h.withdrawChan
  · exact h.withdrawChan

theorem Alike.takeWaiting (w : Winner) : Alike (s.takeWaiting c w) (t.takeWaiting c w) c := by
  unfold State.takeWaiting State.takeWaitingReferenced State.takeWaitingUnreferenced
  rw [h.chan]
  split
  · exact h
  · split
    · split
      · exact h.replaceOrdinary w
      · split
        · exact h.replaceOrdinary w
        · exact h.modChan rfl
    · split
      · exact h.modChan rfl
      · split
        · exact h.withdrawChan
        · exact h.modChan rfl

theorem Alike.setWinner : Alike (s.setWinner c) (t.setWinner c) c := by
  unfold State.setWinner
  rw [h.winner]
  exact h.modChan rfl

theorem Alike.complete (e : Option Extreme) : Alike (s.complete c e) (t.complete c e) c := by
  unfold State.complete
  rw [h.stroke]
  exact Alike.clearChannelCodes (h.modChan rfl)

theorem Alike.stopToRest : Alike (s.stopToRest c) (t.stopToRest c) c := Alike.testReference (h.modChan rfl)

theorem Alike.stopToReverse (n : Nat) : Alike (s.stopToReverse c n) (t.stopToReverse c n) c := h.modChan rfl

theorem Alike.takeRunning (w : Winner) : Alike (s.takeRunning c w) (t.takeRunning c w) c := by
  unfold State.takeRunning
  split
  · rename_i n
    rw [h.chan, h.stroke, h.withinDeadband n]
    split
    · exact h.modChan rfl
    · split
      · exact ((h.complete none).setWinner).testReference
      · exact h.stopToReverse n
  · exact h.stopToRest

theorem Alike.stopReference (w : Winner) : Alike (s.stopReference c w) (t.stopReference c w) c := by
  unfold State.stopReference
  split
  · rename_i n
    rw [h.needsOpening, h.chan, h.known, h.stroke]
    split
    · exact h.stopToReverse n
    · split
      · exact h.stopToRest
      · exact Alike.takeAtRest (h.modChan rfl) _
  · exact h.stopToRest

theorem Alike.takeReferencing (w : Winner) : Alike (s.takeReferencing c w) (t.takeReferencing c w) c := by
  unfold State.takeReferencing
  rw [h.chan]
  split
  · split
    · exact h
    · exact h.stopReference w
  · exact h.modChan rfl

theorem Alike.takeFaulted (w : Winner) : Alike (s.takeFaulted c w) (t.takeFaulted c w) c := by
  unfold State.takeFaulted
  split
  · exact Alike.takeAtRest (h.modChan rfl) _
  · exact h.modChan rfl

theorem Alike.take (w : Winner) : Alike (s.take c w) (t.take c w) c := by
  unfold State.take
  rw [h.chan]
  split
  · exact h
  · exact h.takeAtRest w
  · exact h.takeAtRest w
  · exact h.takeWaiting w
  · exact h.takeRunning w
  · exact h.modChan rfl
  · exact h.takeReferencing w
  · exact h.takeFaulted w

/-- The posting of a changed winner on a channel. -/
theorem Alike.recompute : Alike (s.recompute c) (t.recompute c) c := by
  unfold State.recompute
  rw [h.winner, h.chan, h.detected]
  split
  · exact h
  · split
    · exact h
    · split
      · exact h.setWinner.take _
      · exact h.setWinner

theorem Alike.settleChan : Alike (s.settleChan c) (t.settleChan c) c := h.recompute.testReference

/-- The start of a channel. -/
theorem Alike.startChan : Alike (s.startChan c) (t.startChan c) c := by
  unfold State.startChan
  rw [h.chan, h.stroke, h.chFields]
  split
  · simp only
    split
    · exact (Alike.complete (h.modChan rfl) none).settleChan
    · exact h.modChan rfl
  · exact h

end

end Sys2Proof.Machine
end

