-- ==== Sys2Proof/Laws/Starts.lean ====
section
/-! SUPPORT. What the end of a command starts and claims: a deferred claim that is granted, an isolated start, and the claim formed for the
channels that wait. -/

namespace Sys2Proof.Machine

open Sys2Proof

/-! ## Starts -/

theorem Alike.of_kept {s t : State} {c : Chan} (hk : s.kept = t.kept) (hc : s.chan c = t.chan c) : Alike s t c :=
  ⟨settings_of_kept hk, hc⟩

theorem startIfIn_kept' (s : State) (set : Four Bool) (c : Chan) : (s.startIfIn set c).kept = s.kept := by
  unfold State.startIfIn; split <;> simp

theorem startIfIn_other (s : State) (set : Four Bool) {c d : Chan} (h : d ≠ c) : (s.startIfIn set c).chan d = s.chan d := by
  unfold State.startIfIn; split
  · exact startChan_other s h
  · rfl

/-- A channel meets the starts of a set once, as it was. -/
theorem startSet_chan (s : State) (set : Four Bool) (c : Chan) :
    (s.eachChan (fun c s => s.startIfIn set c)).chan c = if set.get c then (s.startChan c).chan c else s.chan c := by
  have key : ∀ v : State, v.kept = s.kept → v.chan c = s.chan c →
      (v.startIfIn set c).chan c = if set.get c then (s.startChan c).chan c else s.chan c := by
    intro v hk hc
    unfold State.startIfIn
    split
    · exact (Alike.of_kept hk hc).startChan.chan
    · exact hc
  unfold State.eachChan
  cases c
  · rw [startIfIn_other _ _ (by decide), startIfIn_other _ _ (by decide), startIfIn_other _ _ (by decide)]
    exact key s rfl rfl
  · rw [startIfIn_other _ _ (by decide), startIfIn_other _ _ (by decide)]
    exact key _ (startIfIn_kept' s _ _) (startIfIn_other _ _ (by decide))
  · rw [startIfIn_other _ _ (by decide)]
    exact key _ (by rw [startIfIn_kept', startIfIn_kept'])
      (by rw [startIfIn_other _ _ (by decide), startIfIn_other _ _ (by decide)])
  · exact key _ (by rw [startIfIn_kept', startIfIn_kept', startIfIn_kept'])
      (by rw [startIfIn_other _ _ (by decide), startIfIn_other _ _ (by decide), startIfIn_other _ _ (by decide)])

/-- The grant starts the channels of the claim and no other (R120). -/
theorem grant_starts (s : State) (c : Chan) :
    s.grant.chan c = if s.bud.own.channels.get c then (s.startChan c).chan c else s.chan c := by
  let v : State := { s with bud.own := OwnClaim.none, bud.settleTimer := none }
  have hv : Alike v s c := ⟨rfl, rfl⟩
  have h := startSet_chan v s.bud.own.channels c
  rw [hv.startChan.chan, hv.chan] at h
  exact h

/-- The decision on a deferred claim starts nothing but its channels. -/
theorem decideClaim_starts (s : State) (c : Chan) :
    (s.decideClaim.chan c = s.chan c ∨ s.decideClaim.chan c = (s.startChan c).chan c) ∧
      (s.bud.own.channels.get c = false → s.decideClaim.chan c = s.chan c) := by
  unfold State.decideClaim
  generalize (if s.bud.own.fire then s.fireTest else s.nonFireTest) = b
  split
  · rw [grant_starts]
    constructor
    · split
      · exact Or.inr rfl
      · exact Or.inl rfl
    · intro h; rw [h]; rfl
  · exact ⟨Or.inl rfl, fun _ => rfl⟩

/-! ## The steps of the end of a command -/

section
variable (s s0 : State)

theorem queueNotice_bud (n : Notice) : (s.queueNotice n).bud = s.bud := by
  unfold State.queueNotice State.testBreak; simp only; repeat' split
  all_goals rfl

theorem formClaim_bud : s.formClaim.bud = { s.bud with own := s.selectClaim, settleTimer := none } := by
  unfold State.formClaim; simp only; rw [queueNotice_bud]

/-- What queuing a notice does to the queue depends on the queue alone. -/
theorem queueNotice_queue {s t : State} {n : Notice} (h : s.line.queue = t.line.queue) :
    (s.queueNotice n).line.queue = (t.queueNotice n).line.queue := by
  have hb : ∀ u : State, u.testBreak.line.queue = u.line.queue := by
    intro u; unfold State.testBreak; split <;> rfl
  unfold State.queueNotice
  simp only [hb, h]
  split <;> rfl

theorem queueNotice_mem (n : Notice) : ∃ e ∈ (s.queueNotice n).line.queue, e.notice = n := by
  have hb : ∀ u : State, u.testBreak.line.queue = u.line.queue := by
    intro u; unfold State.testBreak; split <;> rfl
  unfold State.queueNotice
  simp only [hb]
  split
  · rename_i h
    obtain ⟨e, he, hk⟩ := List.any_eq_true.mp h
    refine ⟨replaceEntry n e, List.mem_map.mpr ⟨e, he, rfl⟩, ?_⟩
    unfold replaceEntry
    rw [if_pos (of_decide_eq_true hk)]
  · exact ⟨⟨n, 0, false⟩, by simp [enqueue], rfl⟩

theorem supersede_cases : s.supersede = s ∨ (s.supersede = s.formClaim ∧ s.bud.own.state ≠ .none ∧ s.bud.own.fire = false ∧
    Quad.all.any s.waitsHigh = true) := by
  unfold State.supersede
  split
  · rename_i h
    simp only [Bool.and_eq_true, decide_eq_true_eq, Bool.not_eq_true'] at h
    exact Or.inr ⟨rfl, h.1.1, h.1.2, h.2⟩
  · exact Or.inl rfl

theorem selectClaim_state : s.selectClaim.state = .queued := rfl

theorem supersede_iso : s.supersede.bud.isoOpen = s.bud.isoOpen := by
  rcases supersede_cases s with h | h
  · rw [h]
  · rw [h.1, formClaim_bud]

theorem supersede_own (h : s.bud.own.state ≠ .deferred) : s.supersede.bud.own.state ≠ .deferred := by
  rcases supersede_cases s with e | e
  · rw [e]; exact h
  · rw [e.1, formClaim_bud]; exact (by decide : ClaimState.queued ≠ .deferred)

theorem reCheckOnFall_id (h : s.bud.own.state ≠ .deferred) : s.reCheckOnFall s0 = s := by
  unfold State.reCheckOnFall State.reCheck; rw [if_neg h, ite_self]

theorem reCheckOnFall_starts (c : Chan) :
    ((s.reCheckOnFall s0).chan c = s.chan c ∨ (s.reCheckOnFall s0).chan c = (s.startChan c).chan c) ∧
      (s.bud.own.channels.get c = false → (s.reCheckOnFall s0).chan c = s.chan c) := by
  unfold State.reCheckOnFall State.reCheck
  split
  · split
    · exact decideClaim_starts s c
    · exact ⟨Or.inl rfl, fun _ => rfl⟩
  · exact ⟨Or.inl rfl, fun _ => rfl⟩

theorem startChan_iso (c : Chan) : (s.startChan c).bud.isoOpen = s.bud.isoOpen := by
  have hd : ∀ u : State, u.dropClaim.bud.isoOpen = u.bud.isoOpen := by
    intro u
    have hw : ∀ (v : State) k, (v.withdraw k).bud = v.bud := by intro v k; unfold State.withdraw; split <;> rfl
    unfold State.dropClaim; simp only; repeat' split
    all_goals first | rfl | (rw [hw])
  have hl : ∀ u : State, (u.leaveClaim c).bud.isoOpen = u.bud.isoOpen := by
    intro u; unfold State.leaveClaim; simp only; repeat' split
    all_goals first | rfl | exact hd u
  have ht : ∀ u : State, (u.testReference c).bud = u.bud := by
    intro u; unfold State.testReference State.formReference; simp only; split <;> rfl
  have ha : ∀ (u : State) w, (u.takeAtRest c w).bud = u.bud := by
    intro u w; unfold State.takeAtRest State.formReference; repeat' split
    all_goals rfl
  have hwd : ∀ u : State, (u.withdrawChan c).bud.isoOpen = u.bud.isoOpen := by
    intro u; unfold State.withdrawChan; rw [ht, hl]; rfl
  have hr : ∀ u : State, (u.recompute c).bud.isoOpen = u.bud.isoOpen := by
    intro u
    unfold State.recompute State.take State.takeRunning State.takeWaiting State.takeWaitingReferenced
      State.takeWaitingUnreferenced State.replaceOrdinary State.takeReferencing State.stopReference State.stopToRest
      State.stopToReverse State.takeReversing State.takeFaulted
    repeat' split
    all_goals first
      | rfl
      | (rw [hwd]; rfl)
      | (rw [ht]; rfl)
      | (rw [ha]; rfl)
  unfold State.startChan
  split
  · simp only
    split
    · unfold State.settleChan; rw [ht, hr]; rfl
    · rfl
  · rfl

theorem grant_iso : s.grant.bud.isoOpen = s.bud.isoOpen := by
  have hi : ∀ (u : State) set c, (u.startIfIn set c).bud.isoOpen = u.bud.isoOpen := by
    intro u set c; unfold State.startIfIn; split
    · exact startChan_iso u c
    · rfl
  unfold State.grant State.eachChan
  simp only [hi]

theorem reCheckOnFall_iso : (s.reCheckOnFall s0).bud.isoOpen = s.bud.isoOpen := by
  unfold State.reCheckOnFall State.reCheck State.decideClaim
  generalize (if s.bud.own.fire then s.fireTest else s.nonFireTest) = b
  repeat' split
  all_goals first | exact grant_iso s | rfl

theorem formationTest_iso : s.formationTest.bud.isoOpen = s.bud.isoOpen := by
  unfold State.formationTest; split
  · rw [formClaim_bud]
  · rfl

theorem isolatedSlot_id (h : s.bud.isoOpen = false) : s.isolatedSlot = s := by
  unfold State.isolatedSlot; simp [h]

theorem isolatedSlot_starts (c : Chan) :
    s.isolatedSlot.chan c = s.chan c ∨ s.isolatedSlot.chan c = (s.startChan c).chan c := by
  unfold State.isolatedSlot
  split
  · split
    · rename_i d _
      by_cases hd : c = d
      · subst hd
        exact Or.inr (Alike.startChan (s := { s with bud.isoOpen := false, bud.isoTimer := some 2000, bud.lastIso := some 0 })
          (t := s) ⟨rfl, rfl⟩).chan
      · exact Or.inl (startChan_other { s with bud.isoOpen := false, bud.isoTimer := some 2000, bud.lastIso := some 0 } hd)
    · exact Or.inl rfl
  · exact Or.inl rfl

/-- The end of a command up to the channels, the claims and the starts. -/
def State.starts (s s0 : State) : State := ((s.supersede.reCheckOnFall s0).formationTest).isolatedSlot

theorem starts_iso_id (h : s.bud.isoOpen = false) : s.starts s0 = (s.supersede.reCheckOnFall s0).formationTest := by
  unfold State.starts
  exact isolatedSlot_id _ (by rw [formationTest_iso, reCheckOnFall_iso, supersede_iso, h])

/-- With no isolated start allowed only the channels of a deferred claim can be started. -/
theorem starts_unstarted (h : s.bud.isoOpen = false) (c : Chan)
    (hc : s.bud.own.state ≠ .deferred ∨ s.bud.own.channels.get c = false) : (s.starts s0).chan c = s.chan c := by
  rw [starts_iso_id s s0 h, chan_of_ch (formationTest_ch _) c]
  have hs : s.supersede.chan c = s.chan c := chan_of_ch (supersede_ch s) c
  rcases hc with hc | hc
  · rw [reCheckOnFall_id _ s0 (supersede_own s hc), hs]
  · rcases supersede_cases s with e | e
    · rw [e]; exact (reCheckOnFall_starts s s0 c).2 hc
    · have hn : s.supersede.bud.own.state ≠ .deferred := by
        rw [e.1, formClaim_bud]; exact (by decide : ClaimState.queued ≠ .deferred)
      rw [reCheckOnFall_id _ s0 hn, hs]

/-- A channel is as it was, or started. -/
theorem starts_started (h : s.bud.isoOpen = false ∨ s.bud.own.state ≠ .deferred) (c : Chan) :
    (s.starts s0).chan c = s.chan c ∨ (s.starts s0).chan c = (s.startChan c).chan c := by
  have hs : s.supersede.chan c = s.chan c := chan_of_ch (supersede_ch s) c
  have hA : Alike s.supersede s c := Alike.of_kept (supersede_kept s) hs
  rcases h with h | h
  · rw [starts_iso_id s s0 h, chan_of_ch (formationTest_ch _) c]
    have := (reCheckOnFall_starts s.supersede s0 c).1
    rwa [hs, hA.startChan.chan] at this
  · unfold State.starts
    rw [reCheckOnFall_id _ s0 (supersede_own s h)]
    have hB : Alike s.supersede.formationTest s c :=
      Alike.of_kept (by simp) (by rw [chan_of_ch (formationTest_ch _) c, hs])
    have := isolatedSlot_starts s.supersede.formationTest c
    rwa [hB.chan, hB.startChan.chan] at this

/-- The claim that the end of a command calls for. -/
theorem starts_formed (h : s.bud.isoOpen = false) (hc : s.formsClaim = true) : s.starts s0 = s.formClaim := by
  have hq : s.formClaim.bud.own.state = .queued := by rw [formClaim_bud]; rfl
  have hf : s.formClaim.formationTest = s.formClaim := by unfold State.formationTest; simp [hq]
  have hr : s.formClaim.reCheckOnFall s0 = s.formClaim := reCheckOnFall_id _ s0 (by rw [hq]; decide)
  rw [starts_iso_id s s0 h]
  unfold State.formsClaim at hc
  split at hc
  · rename_i ho
    have e1 : s.supersede = s := by unfold State.supersede; simp [ho]
    rw [e1, reCheckOnFall_id s s0 (by rw [ho]; decide)]
    simp only [Bool.and_eq_true, Bool.not_eq_true'] at hc
    unfold State.formationTest
    simp [hc.1.1, hc.1.2, hc.2, ho]
  · rename_i ho
    have e : s.supersede = s.formClaim := by
      simp only [Bool.and_eq_true, Bool.not_eq_true'] at hc
      unfold State.supersede
      simp [ho, hc.1, hc.2]
    rw [e, hr, hf]

/-- Where no claim is called for, and the live one is not deferred, nothing is claimed and nothing started. -/
theorem starts_unclaimed (h : s.bud.isoOpen = false) (hc : s.formsClaim = false) (ho : s.bud.own.state ≠ .deferred) :
    s.starts s0 = s := by
  rw [starts_iso_id s s0 h]
  unfold State.formsClaim at hc
  have e1 : s.supersede = s := by
    unfold State.supersede
    split at hc
    · rename_i hn; simp [hn]
    · rename_i hn
      rcases Bool.and_eq_false_iff.mp hc with e | e
      · simp only [Bool.not_eq_false'] at e; simp [e]
      · simp [e]
  rw [e1, reCheckOnFall_id s s0 ho]
  unfold State.formationTest
  split at hc
  · rename_i hn
    rw [if_neg]
    simp only [hn, decide_true, Bool.and_true, hc]
    decide
  · rename_i hn; simp [hn]

end

end Sys2Proof.Machine
end

