-- ==== Sys2Proof/Laws/Follows.lean ====
section
/-! SUPPORT. The end of a command says once all it can do: State.finish s s0 follows s. -/

namespace Sys2Proof.Machine

open Sys2Proof

/-! ## What is held of a channel -/

section
variable (s : State) (c d : Chan)

theorem modChan_held {f : Channel → Channel} (h : ∀ k, (f k).held = k.held) :
    ((s.modChan c f).chan d).held = (s.chan d).held := by
  by_cases hd : d = c
  · subst hd; rw [chan_modChan_self, h]
  · rw [chan_modChan_ne s _ hd]

@[simp] theorem formReference_held (w : Winner) : ((s.formReference c w).chan d).held = (s.chan d).held :=
  modChan_held s c d (fun _ => rfl)

@[simp] theorem testReference_held : ((s.testReference c).chan d).held = (s.chan d).held := by
  unfold State.testReference; simp only; split <;> simp

@[simp] theorem takeAtRest_held (w : Winner) : ((s.takeAtRest c w).chan d).held = (s.chan d).held := by
  unfold State.takeAtRest
  repeat' split
  all_goals first | rfl | exact formReference_held s c d w | exact modChan_held s c d (fun _ => rfl)

@[simp] theorem withdrawChan_held : ((s.withdrawChan c).chan d).held = (s.chan d).held := by
  unfold State.withdrawChan
  rw [testReference_held, leaveClaim_chan]
  exact modChan_held s c d (fun _ => rfl)

@[simp] theorem replaceOrdinary_held (w : Winner) : ((s.replaceOrdinary c w).chan d).held = (s.chan d).held := by
  unfold State.replaceOrdinary
  repeat' split
  all_goals first | exact withdrawChan_held s c d | exact modChan_held s c d (fun _ => rfl)

@[simp] theorem takeWaiting_held (w : Winner) : ((s.takeWaiting c w).chan d).held = (s.chan d).held := by
  unfold State.takeWaiting State.takeWaitingReferenced State.takeWaitingUnreferenced
  repeat' split
  all_goals first
    | rfl | exact withdrawChan_held s c d | exact replaceOrdinary_held s c d w | exact modChan_held s c d (fun _ => rfl)

@[simp] theorem setWinner_held : ((s.setWinner c).chan d).held = (s.chan d).held :=
  modChan_held s c d (fun _ => rfl)

@[simp] theorem complete_held (e : Option Extreme) : ((s.complete c e).chan d).held = (s.chan d).held := by
  unfold State.complete
  rw [clearChannelCodes_chan]
  exact modChan_held s c d (fun _ => rfl)

@[simp] theorem stopToRest_held : ((s.stopToRest c).chan d).held = (s.chan d).held := by
  unfold State.stopToRest
  rw [testReference_held]
  exact modChan_held s c d (fun _ => rfl)

@[simp] theorem stopToReverse_held (t : Nat) : ((s.stopToReverse c t).chan d).held = (s.chan d).held :=
  modChan_held s c d (fun _ => rfl)

@[simp] theorem takeRunning_held (w : Winner) : ((s.takeRunning c w).chan d).held = (s.chan d).held := by
  unfold State.takeRunning
  repeat' split
  all_goals first | simp; done | exact modChan_held s c d (fun _ => rfl)

@[simp] theorem stopReference_held (w : Winner) : ((s.stopReference c w).chan d).held = (s.chan d).held := by
  unfold State.stopReference
  repeat' split
  all_goals first | simp; done | (rw [takeAtRest_held]; exact modChan_held s c d (fun _ => rfl))

@[simp] theorem takeReferencing_held (w : Winner) : ((s.takeReferencing c w).chan d).held = (s.chan d).held := by
  unfold State.takeReferencing
  repeat' split
  all_goals first | simp; done | exact modChan_held s c d (fun _ => rfl)

@[simp] theorem takeReversing_held (w : Winner) : ((s.takeReversing c w).chan d).held = (s.chan d).held :=
  modChan_held s c d (fun _ => rfl)

@[simp] theorem takeFaulted_held (w : Winner) : ((s.takeFaulted c w).chan d).held = (s.chan d).held := by
  unfold State.takeFaulted
  split
  · rw [takeAtRest_held]; exact modChan_held s c d (fun _ => rfl)
  · exact modChan_held s c d (fun _ => rfl)

@[simp] theorem take_held (w : Winner) : ((s.take c w).chan d).held = (s.chan d).held := by
  unfold State.take; split <;> simp

@[simp] theorem recompute_held : ((s.recompute c).chan d).held = (s.chan d).held := by
  unfold State.recompute
  repeat' split
  all_goals simp

@[simp] theorem settleChan_held : ((s.settleChan c).chan d).held = (s.chan d).held := by simp [State.settleChan]

@[simp] theorem startChan_held : ((s.startChan c).chan d).held = (s.chan d).held := by
  unfold State.startChan
  split
  · simp only
    split
    · simp only [settleChan_held, complete_held]
      exact modChan_held s c d (fun _ => rfl)
    · exact modChan_held s c d (fun _ => rfl)
  · rfl

/-! ## The fault codes of the other channels -/

/-- Not a code of a channel. -/
def notCodeOf (c : Chan) (n : Nat) : Bool := decide (n < channelCode c 0) || decide (channelCode c 4 < n)

/-- The fault codes that are not of a channel. -/
def State.codesBut (s : State) (c : Chan) : List Nat := s.sup.faults.filter (notCodeOf c)

theorem code_other {c d : Chan} (h : d ≠ c) {cause : Nat} (hk : cause ≤ 4) : notCodeOf c (channelCode d cause) = true := by
  interval_cases cause <;> cases c <;> cases d <;> first | exact absurd rfl h | rfl

theorem codesBut_mem {s t : State} {c d : Chan} (h : t.codesBut c = s.codesBut c) (hd : d ≠ c) {cause : Nat}
    (hk : cause ≤ 4) : channelCode d cause ∈ t.sup.faults ↔ channelCode d cause ∈ s.sup.faults := by
  have h' : channelCode d cause ∈ t.codesBut c ↔ channelCode d cause ∈ s.codesBut c := by rw [h]
  simpa [State.codesBut, code_other hd hk] using h'

@[simp] theorem clearChannelCodes_codesBut : (s.clearChannelCodes c).codesBut c = s.codesBut c := by
  simp only [State.codesBut, State.clearChannelCodes, List.filter_filter]
  congr 1
  funext n
  simp [notCodeOf]

@[simp] theorem modChan_codesBut (f : Channel → Channel) : (s.modChan c f).codesBut d = s.codesBut d := rfl

/-! A change of the fault set other than these leaves the codes alone. -/

@[simp] theorem testBreak_faults : s.testBreak.sup = s.sup := by unfold State.testBreak; split <;> rfl
@[simp] theorem queueNotice_sup (n : Notice) : (s.queueNotice n).sup = s.sup := by
  unfold State.queueNotice; simp only [testBreak_faults]; split <;> rfl
@[simp] theorem withdraw_sup (key : Kind × Option Zone) : (s.withdraw key).sup = s.sup := by
  unfold State.withdraw; split <;> rfl
@[simp] theorem dropClaim_sup : s.dropClaim.sup = s.sup := by
  unfold State.dropClaim; simp only; repeat' split
  all_goals first | rfl | exact withdraw_sup s _
@[simp] theorem giveUpClaims_sup : s.giveUpClaims.sup = s.sup := by simp [State.giveUpClaims]
@[simp] theorem leaveClaim_sup : (s.leaveClaim c).sup = s.sup := by
  unfold State.leaveClaim; simp only; repeat' split
  all_goals first | rfl | exact dropClaim_sup s
@[simp] theorem modChan_sup' (f : Channel → Channel) : (s.modChan c f).sup = s.sup := rfl
@[simp] theorem formReference_sup (w : Winner) : (s.formReference c w).sup = s.sup := rfl
@[simp] theorem testReference_sup : (s.testReference c).sup = s.sup := by
  unfold State.testReference; simp only; split <;> simp
@[simp] theorem takeAtRest_sup (w : Winner) : (s.takeAtRest c w).sup = s.sup := by
  unfold State.takeAtRest; repeat' split
  all_goals simp
@[simp] theorem withdrawChan_sup : (s.withdrawChan c).sup = s.sup := by simp [State.withdrawChan]
@[simp] theorem replaceOrdinary_sup (w : Winner) : (s.replaceOrdinary c w).sup = s.sup := by
  unfold State.replaceOrdinary; repeat' split
  all_goals simp
@[simp] theorem setWinner_sup : (s.setWinner c).sup = s.sup := rfl
@[simp] theorem takeWaiting_sup (w : Winner) : (s.takeWaiting c w).sup = s.sup := by
  unfold State.takeWaiting State.takeWaitingReferenced State.takeWaitingUnreferenced; repeat' split
  all_goals simp
@[simp] theorem stopToRest_sup : (s.stopToRest c).sup = s.sup := by simp [State.stopToRest]
@[simp] theorem stopToReverse_sup (t : Nat) : (s.stopToReverse c t).sup = s.sup := rfl
@[simp] theorem stopReference_sup (w : Winner) : (s.stopReference c w).sup = s.sup := by
  unfold State.stopReference; repeat' split
  all_goals simp
@[simp] theorem takeReferencing_sup (w : Winner) : (s.takeReferencing c w).sup = s.sup := by
  unfold State.takeReferencing; repeat' split
  all_goals simp
@[simp] theorem takeFaulted_sup (w : Winner) : (s.takeFaulted c w).sup = s.sup := by
  unfold State.takeFaulted; split <;> simp

theorem codesBut_of_sup {s t : State} (h : t.sup = s.sup) (d : Chan) : t.codesBut d = s.codesBut d := by
  simp [State.codesBut, h]

@[simp] theorem complete_codesBut (e : Option Extreme) : (s.complete c e).codesBut c = s.codesBut c := by
  unfold State.complete; rw [clearChannelCodes_codesBut]; rfl

@[simp] theorem takeRunning_codesBut (w : Winner) : (s.takeRunning c w).codesBut c = s.codesBut c := by
  unfold State.takeRunning
  repeat' split
  · rfl
  · rw [codesBut_of_sup (testReference_sup _ c), codesBut_of_sup (setWinner_sup _ c), complete_codesBut]
  · rfl
  · exact codesBut_of_sup (stopToRest_sup s c) c

@[simp] theorem take_codesBut (w : Winner) : (s.take c w).codesBut c = s.codesBut c := by
  unfold State.take
  split
  all_goals first
    | rfl | exact takeRunning_codesBut s c w | (apply codesBut_of_sup; simp)

@[simp] theorem recompute_codesBut : (s.recompute c).codesBut c = s.codesBut c := by
  unfold State.recompute
  repeat' split
  all_goals first | rfl | (rw [take_codesBut]; rfl)

@[simp] theorem settleChan_codesBut : (s.settleChan c).codesBut c = s.codesBut c := by
  unfold State.settleChan
  rw [codesBut_of_sup (testReference_sup _ c), recompute_codesBut]

@[simp] theorem startChan_codesBut : (s.startChan c).codesBut c = s.codesBut c := by
  unfold State.startChan
  split
  · simp only
    split
    · rw [settleChan_codesBut, complete_codesBut]; rfl
    · rfl
  · rfl

/-- Starting a channel leaves alone the fault codes of a channel that does not wait. -/
theorem startChan_codes (h : (s.chan d).state ≠ .waiting) {cause : Nat} (hk : cause ≤ 4) :
    channelCode d cause ∈ (s.startChan c).sup.faults ↔ channelCode d cause ∈ s.sup.faults := by
  by_cases hd : d = c
  · subst hd; rw [startChan_not_waiting s h]
  · exact codesBut_mem (startChan_codesBut s c) hd hk

end

/-- Replacing an entry in place does not change a part of the queue that the entry is not in, before or after. -/
theorem filter_replaceEntry {p : QueueEntry → Bool} {n : Notice}
    (hp : ∀ e : QueueEntry, e.notice.key = n.key → p e = false ∧ p { e with notice := n, failed := 0 } = false)
    (q : List QueueEntry) : (q.map (replaceEntry n)).filter p = q.filter p := by
  induction q with
  | nil => rfl
  | cons e q ih =>
    rw [List.map_cons, List.filter_cons, List.filter_cons, ih]
    by_cases he : e.notice.key = n.key
    · have h := hp e he
      have hr : replaceEntry n e = { e with notice := n, failed := 0 } := by unfold replaceEntry; rw [if_pos he]
      simp only [hr, h.1, h.2, Bool.false_eq_true, if_false]
    · have hr : replaceEntry n e = e := by unfold replaceEntry; rw [if_neg he]
      rw [hr]

/-! ## What shows the station: the schedules and the lamp -/

/-- The schedules, the lamp and the STATUS that waits. -/
def State.shown (s : State) : Schedules × Lamp × List QueueEntry :=
  (s.sched, s.sup.lamp, s.line.queue.filter (fun e => !otherNotice e))

section
variable (s : State) (c : Chan)

@[simp] theorem modChan_shown (f : Channel → Channel) : (s.modChan c f).shown = s.shown := rfl
@[simp] theorem testBreak_shown : s.testBreak.shown = s.shown := by unfold State.testBreak; split <;> rfl
theorem queueNotice_shown {n : Notice} (hn : n.kind ≠ .status) : (s.queueNotice n).shown = s.shown := by
  unfold State.queueNotice; simp only [testBreak_shown]
  split
  · unfold State.shown
    simp only
    rw [filter_replaceEntry (fun e he => ?_)]
    have hk : e.notice.kind = n.kind := kind_of_key he
    simp [otherNotice, hk, hn]
  · unfold State.shown
    simp only
    rw [filter_enqueue (p := fun e => !otherNotice e) (by simp [otherNotice, hn])]
theorem withdraw_claim_shown : (s.withdraw (.claim, none)).shown = s.shown := by
  unfold State.withdraw; split
  · rfl
  · unfold State.shown
    simp only [List.filter_filter]
    congr 3
    funext e
    by_cases hk : e.notice.key = (.claim, none)
    · have : e.notice.kind = .claim := kind_of_key (n := .claim (Four.all false) 0 false) hk
      simp [otherNotice, this]
    · simp [hk]
@[simp] theorem dropClaim_shown : s.dropClaim.shown = s.shown := by
  unfold State.dropClaim; simp only; repeat' split
  all_goals first | rfl | exact withdraw_claim_shown s
@[simp] theorem giveUpClaims_shown : s.giveUpClaims.shown = s.shown := by
  simp [State.giveUpClaims, withdraw_claim_shown]
@[simp] theorem leaveClaim_shown : (s.leaveClaim c).shown = s.shown := by
  unfold State.leaveClaim; simp only; repeat' split
  all_goals first | rfl | exact dropClaim_shown s
@[simp] theorem formReference_shown (w : Winner) : (s.formReference c w).shown = s.shown := rfl
@[simp] theorem testReference_shown : (s.testReference c).shown = s.shown := by
  unfold State.testReference; simp only; split <;> simp
@[simp] theorem takeAtRest_shown (w : Winner) : (s.takeAtRest c w).shown = s.shown := by
  unfold State.takeAtRest; repeat' split
  all_goals simp
@[simp] theorem withdrawChan_shown : (s.withdrawChan c).shown = s.shown := by simp [State.withdrawChan]
@[simp] theorem replaceOrdinary_shown (w : Winner) : (s.replaceOrdinary c w).shown = s.shown := by
  unfold State.replaceOrdinary; repeat' split
  all_goals simp
@[simp] theorem takeWaiting_shown (w : Winner) : (s.takeWaiting c w).shown = s.shown := by
  unfold State.takeWaiting State.takeWaitingReferenced State.takeWaitingUnreferenced; repeat' split
  all_goals simp
@[simp] theorem setWinner_shown : (s.setWinner c).shown = s.shown := rfl
@[simp] theorem complete_shown (e : Option Extreme) : (s.complete c e).shown = s.shown := rfl
@[simp] theorem stopToRest_shown : (s.stopToRest c).shown = s.shown := by simp [State.stopToRest]
@[simp] theorem stopToReverse_shown (t : Nat) : (s.stopToReverse c t).shown = s.shown := rfl
@[simp] theorem takeRunning_shown (w : Winner) : (s.takeRunning c w).shown = s.shown := by
  unfold State.takeRunning; repeat' split
  all_goals simp
@[simp] theorem stopReference_shown (w : Winner) : (s.stopReference c w).shown = s.shown := by
  unfold State.stopReference; repeat' split
  all_goals simp
@[simp] theorem takeReferencing_shown (w : Winner) : (s.takeReferencing c w).shown = s.shown := by
  unfold State.takeReferencing; repeat' split
  all_goals simp
@[simp] theorem takeReversing_shown (w : Winner) : (s.takeReversing c w).shown = s.shown := rfl
@[simp] theorem takeFaulted_shown (w : Winner) : (s.takeFaulted c w).shown = s.shown := by
  unfold State.takeFaulted; split <;> simp
@[simp] theorem take_shown (w : Winner) : (s.take c w).shown = s.shown := by unfold State.take; split <;> simp
@[simp] theorem recompute_shown : (s.recompute c).shown = s.shown := by
  unfold State.recompute; repeat' split
  all_goals simp
@[simp] theorem settleChan_shown : (s.settleChan c).shown = s.shown := by simp [State.settleChan]
@[simp] theorem startChan_shown : (s.startChan c).shown = s.shown := by
  unfold State.startChan
  split
  · simp only
    split <;> simp
  · rfl
theorem startIfIn_shown (set : Four Bool) : (s.startIfIn set c).shown = s.shown := by
  unfold State.startIfIn; split <;> simp
theorem grant_shown : s.grant.shown = s.shown := by
  unfold State.grant
  exact eachChan_keeps State.shown _ (fun c u => startIfIn_shown u c _) _
theorem reCheckOnFall_shown (s0 : State) : (s.reCheckOnFall s0).shown = s.shown := by
  unfold State.reCheckOnFall State.reCheck State.decideClaim
  generalize (if s.bud.own.fire then s.fireTest else s.nonFireTest) = b
  repeat' split
  all_goals first | exact grant_shown s | rfl
theorem isolatedSlot_shown : s.isolatedSlot.shown = s.shown := by
  unfold State.isolatedSlot; repeat' split
  all_goals first | rfl | (rw [startChan_shown]; rfl)
theorem supersede_shown : s.supersede.shown = s.shown := by
  unfold State.supersede State.formClaim; split
  · rw [queueNotice_shown _ (by simp [Notice.kind])]; rfl
  · rfl
theorem formationTest_shown : s.formationTest.shown = s.shown := by
  unfold State.formationTest State.formClaim; split
  · rw [queueNotice_shown _ (by simp [Notice.kind])]; rfl
  · rfl

end

/-! ## The end of a command -/

section
variable (s : State)

theorem startIfIn_held (set : Four Bool) (c d : Chan) : ((s.startIfIn set c).chan d).held = (s.chan d).held := by
  unfold State.startIfIn; split <;> simp

theorem grant_held (d : Chan) : (s.grant.chan d).held = (s.chan d).held := by
  unfold State.grant
  exact eachChan_keeps (fun u : State => (u.chan d).held) _ (fun c u => startIfIn_held u _ c d) _

theorem reCheckOnFall_held (s0 : State) (d : Chan) : ((s.reCheckOnFall s0).chan d).held = (s.chan d).held := by
  unfold State.reCheckOnFall State.reCheck State.decideClaim
  generalize (if s.bud.own.fire then s.fireTest else s.nonFireTest) = b
  repeat' split
  all_goals first | exact grant_held s d | rfl

theorem isolatedSlot_held (d : Chan) : (s.isolatedSlot.chan d).held = (s.chan d).held := by
  unfold State.isolatedSlot
  repeat' split
  all_goals first | rfl | (rw [startChan_held]; rfl)

theorem supersede_sup : s.supersede.sup = s.sup := by
  unfold State.supersede State.formClaim; split <;> simp

theorem formationTest_sup : s.formationTest.sup = s.sup := by
  unfold State.formationTest State.formClaim; split <;> simp

theorem statusOnChange_sup : s.statusOnChange.sup = s.sup := by
  unfold State.statusOnChange State.queueStatus; repeat' split
  all_goals first | rfl | exact queueNotice_sup s _

variable {d : Chan} {cause : Nat}

theorem startIfIn_codes (set : Four Bool) (c : Chan) (h : (s.chan d).state ≠ .waiting) (hk : cause ≤ 4) :
    channelCode d cause ∈ (s.startIfIn set c).sup.faults ↔ channelCode d cause ∈ s.sup.faults := by
  unfold State.startIfIn; split
  · exact startChan_codes s c d h hk
  · rfl

theorem grant_codes (h : (s.chan d).state ≠ .waiting) (hk : cause ≤ 4) :
    channelCode d cause ∈ s.grant.sup.faults ↔ channelCode d cause ∈ s.sup.faults := by
  unfold State.grant State.eachChan
  simp only
  generalize hs : s.bud.own.channels = set
  generalize h0 : ({ s with bud.own := OwnClaim.none, bud.settleTimer := none } : State) = u
  have hu : u.chan d = s.chan d := by subst h0; rfl
  have h1 : (u.chan d).state ≠ .waiting := by rw [hu]; exact h
  have h2 : ((u.startIfIn set .one).chan d).state ≠ .waiting := by rw [startIfIn_chan u set .one h1]; exact h1
  have h3 := startIfIn_chan (u.startIfIn set .one) set .two h2
  have h3' : (((u.startIfIn set .one).startIfIn set .two).chan d).state ≠ .waiting := by rw [h3]; exact h2
  have h4 := startIfIn_chan _ set .three h3'
  have h4' : ((((u.startIfIn set .one).startIfIn set .two).startIfIn set .three).chan d).state ≠ .waiting := by
    rw [h4]; exact h3'
  rw [startIfIn_codes _ set .four h4' hk, startIfIn_codes _ set .three h3' hk, startIfIn_codes _ set .two h2 hk,
    startIfIn_codes _ set .one h1 hk]
  subst h0; rfl

theorem reCheckOnFall_codes (s0 : State) (h : (s.chan d).state ≠ .waiting) (hk : cause ≤ 4) :
    channelCode d cause ∈ (s.reCheckOnFall s0).sup.faults ↔ channelCode d cause ∈ s.sup.faults := by
  unfold State.reCheckOnFall State.reCheck State.decideClaim
  generalize (if s.bud.own.fire then s.fireTest else s.nonFireTest) = b
  repeat' split
  all_goals first | exact grant_codes s h hk | rfl

theorem isolatedSlot_codes (h : (s.chan d).state ≠ .waiting) (hk : cause ≤ 4) :
    channelCode d cause ∈ s.isolatedSlot.sup.faults ↔ channelCode d cause ∈ s.sup.faults := by
  unfold State.isolatedSlot
  repeat' split
  all_goals first
    | rfl
    | exact startChan_codes { s with bud.isoOpen := false, bud.isoTimer := some 2000, bud.lastIso := some 0 } _ d h hk

end

/-- With no channel waiting and no live claim nothing is started and nothing claimed. -/
theorem noWaiting_chansIn {s : State} (h : ∀ c, (s.chan c).state ≠ .waiting) : s.chansIn .waiting = [] := by
  simp [State.chansIn, h]

theorem starts_quiet {s : State} (s0 : State) (h : ∀ c, (s.chan c).state ≠ .waiting) (hc : s.bud.own.state = .none) :
    ((s.supersede.reCheckOnFall s0).formationTest).isolatedSlot = s := by
  have e1 : s.supersede = s := by simp [State.supersede, hc]
  have e2 : s.reCheckOnFall s0 = s := by
    unfold State.reCheckOnFall State.reCheck
    simp [hc]
  have e3 : s.formationTest = s := by simp [State.formationTest, noWaiting_chansIn h]
  have e4 : s.isolatedSlot = s := by
    have hn : s.isolatedChoice = none := by
      unfold State.isolatedChoice
      have hf : Quad.all.find? s.waitsHigh = none := by simp [State.waitsHigh, h]
      rw [hf, noWaiting_chansIn h]; rfl
    unfold State.isolatedSlot
    simp [hn]
  rw [e1, e2, e3, e4]

/-- The queue without STATUS is untouched by the queuing of a STATUS. -/
theorem queueStatus_others (s : State) :
    s.queueStatus.line.queue.filter otherNotice =
      s.line.queue.filter otherNotice := by
  have hb : ∀ u : State, u.testBreak.line.queue = u.line.queue := by
    intro u; unfold State.testBreak; split <;> rfl
  unfold State.queueStatus State.queueNotice
  simp only [hb]
  split
  · refine filter_replaceEntry (fun e he => ⟨?_, ?_⟩) _
    · have hk : e.notice.kind = .status := kind_of_key he
      simp [otherNotice, hk]
    · rfl
  · rw [filter_enqueue]
    rfl

theorem statusOnChange_others (s : State) :
    s.statusOnChange.line.queue.filter otherNotice =
      s.line.queue.filter otherNotice := by
  unfold State.statusOnChange; repeat' split
  all_goals first | rfl | exact queueStatus_others s

theorem statusOnChange_bud (s : State) : s.statusOnChange.bud = s.bud := by
  have hb : ∀ u : State, u.testBreak.bud = u.bud := by intro u; unfold State.testBreak; split <;> rfl
  unfold State.statusOnChange State.queueStatus State.queueNotice; repeat' split
  all_goals first | rfl | (simp only [hb])

/-- The records of two contents differ as R30 lists in one pair of them. -/
theorem recordsDiffer_iff : ∀ {l n : List ChanRecord}, l.length = n.length →
    (recordsDiffer l n = true ↔ ∃ p ∈ l.zip n, recordDiffers p.1 p.2 = true)
  | [], [], _ => by simp [recordsDiffer]
  | a :: l, b :: n, h => by
    have ih := recordsDiffer_iff (l := l) (n := n) (by simpa using h)
    simp [recordsDiffer, ih]

theorem recordDiffers_iff (a b : ChanRecord) : recordDiffers a b = true ↔
    a.state ≠ b.state ∨ a.source ≠ b.source ∨ a.position + 20 ≤ b.position ∨ b.position + 20 ≤ a.position ∨
      (a.position ≠ b.position ∧ (b.position = 0 ∨ b.position = 1000)) := by
  have h : 20 ≤ apart a.position b.position ↔ a.position + 20 ≤ b.position ∨ b.position + 20 ≤ a.position := by
    unfold apart; omega
  simp [recordDiffers, h, or_assoc]

/-- What calls for a STATUS is what R30 lists. -/
theorem statusDiffers_iff {last now : StatusContent} (h : last.channels.length = now.channels.length) :
    statusDiffers last now = true ↔ last.reportDue now := by
  have hc : 5 ≤ apart last.current now.current ↔ last.current + 5 ≤ now.current ∨ now.current + 5 ≤ last.current := by
    unfold apart; omega
  simp only [statusDiffers, StatusContent.reportDue, Bool.or_eq_true, decide_eq_true_eq, recordsDiffer_iff h, recordDiffers_iff, hc]
  constructor
  · rintro (((((h | h) | h) | h) | h) | h | h) <;> simp only [h, ne_eq, not_false_eq_true, true_or, or_true]
  · rintro (h | h | h | h | h | h | h) <;> simp only [h, ne_eq, not_false_eq_true, true_or, or_true]

/-- Queuing a STATUS changes nothing that it reports. -/
theorem statusOnChange_content (s : State) : s.statusOnChange.statusContent = s.statusContent := by
  have hb : ∀ u : State, u.testBreak.statusContent = u.statusContent := by intro u; unfold State.testBreak; split <;> rfl
  unfold State.statusOnChange; repeat' split
  all_goals first
    | rfl
    | (show (s.queueNotice (.status s.statusContent)).statusContent = _
       unfold State.queueNotice; simp only [hb]; split <;> rfl)

theorem statusOnChange_shows (s : State) : s.statusOnChange.ShowsStatus s := by
  have hc := statusOnChange_content s
  constructor
  · intro h1 h2 last hl hn hd
    rw [hc] at hn hd ⊢
    have e : s.statusOnChange = s.queueStatus := by
      have hl' : s.sched.lastStatus = some last := hl
      unfold State.statusOnChange
      simp [hl', h1, h2, (statusDiffers_iff hn).2 hd]
    rw [e]
    exact ⟨rfl, rfl, rfl, queueNotice_mem s (.status s.statusContent)⟩
  · intro h
    rw [hc] at h
    have e : s.statusOnChange = s := by
      unfold State.statusOnChange
      split
      · rename_i last hl
        rw [if_neg]
        intro hg
        simp only [Bool.and_eq_true, Bool.not_eq_true', Option.isNone_iff_eq_none] at hg
        rcases h with h | h | h
        · rw [hg.1.1] at h; cases h
        · exact h hg.1.2
        · exact (h last hl).2 ((statusDiffers_iff (h last hl).1).1 hg.2)
      · rfl
    rw [e]
    exact ⟨rfl, rfl, rfl, rfl⟩

/-- The change-caused STATUS depends on what shows the station, its mode aside, alone. -/
theorem State.ShowsStatus.of_shown {t u x : State} (h : t.ShowsStatus x) (hk : x.starting = u.starting) (hs : x.shown = u.shown) :
    t.ShowsStatus u := by
  have e1 : x.sched = u.sched := congrArg Prod.fst hs
  have e2 : x.line.queue.filter (fun e => !otherNotice e) = u.line.queue.filter (fun e => !otherNotice e) := congrArg (·.2.2) hs
  obtain ⟨a, b⟩ := h
  rw [e1, hk] at a b
  rw [e2] at b
  exact ⟨a, b⟩

theorem starting_of_kept {s t : State} (h : t.kept = s.kept) : t.starting = s.starting := by
  unfold State.starting; rw [(kept_sup h).1]

/-- The end of a command follows the state it ends (log entry 11). -/
theorem finish_follows (s s0 : State) : (s.finish s0).Follows s := by
  let u := ((s.supersede.reCheckOnFall s0).formationTest).isolatedSlot
  have hu : ((s.supersede.reCheckOnFall s0).formationTest).isolatedSlot = u := rfl
  have hf : s.finish s0 = u.statusOnChange.refreshOutputs := rfl
  have hks : u.kept = s.kept := by simp [u]
  have hsh : u.shown = s.shown := by
    show (((s.supersede.reCheckOnFall s0).formationTest).isolatedSlot).shown = _
    rw [isolatedSlot_shown, formationTest_shown, reCheckOnFall_shown, supersede_shown]
  have hlamp : u.sup.lamp = s.sup.lamp := congrArg (·.2.1) hsh
  have hstart : u.starting = s.starting := starting_of_kept hks
  have hch : ∀ d, (s.finish s0).chan d = u.chan d := fun d =>
    chan_of_ch ((refreshOutputs_ch _).trans (statusOnChange_ch _)) d
  have hbud : (s.finish s0).bud = u.bud := by rw [hf]; exact statusOnChange_bud u
  refine ⟨finish_kept s s0, fun c h => finish_chan s0 h, ?_, ?_,
    fun h c hc => (hch c).trans (starts_unstarted s s0 h c hc),
    fun h c => (starts_started s s0 h c).imp (hch c).trans (hch c).trans, ?_,
    ?_, ?_, ?_, rfl, ?_⟩
  · intro c
    rw [hch c]
    show ((((s.supersede.reCheckOnFall s0).formationTest).isolatedSlot).chan c).held = _
    rw [isolatedSlot_held, chan_of_ch (formationTest_ch _) c, reCheckOnFall_held, chan_of_ch (supersede_ch s) c]
  · intro c cause hk h
    have e0 : s.supersede.chan c = s.chan c := chan_of_ch (supersede_ch s) c
    have e1 : (s.supersede.reCheckOnFall s0).chan c = s.chan c := by
      rw [reCheckOnFall_chan s0 (s := s.supersede) (by rw [e0]; exact h), e0]
    have e2 : (s.supersede.reCheckOnFall s0).formationTest.chan c = s.chan c := by
      rw [chan_of_ch (formationTest_ch _) c, e1]
    have hsup : (s.finish s0).sup.faults = u.sup.faults := by
      rw [hf]; show u.statusOnChange.sup.faults = _; rw [statusOnChange_sup]
    rw [hsup, ← hu, isolatedSlot_codes _ (by rw [e2]; exact h) hk, formationTest_sup,
      reCheckOnFall_codes _ s0 (by rw [e0]; exact h) hk, supersede_sup]
  · intro h hc
    have e : u = s.formClaim := starts_formed s s0 h hc
    refine ⟨by rw [hbud, e, formClaim_bud], ?_⟩
    rw [hf, e]
    exact (statusOnChange_others s.formClaim).trans (congrArg _ (queueNotice_queue rfl))
  · intro h hc ho
    have e : u = s := starts_unclaimed s s0 h hc ho
    rw [hf, e]
    exact ⟨statusOnChange_bud s, statusOnChange_others s⟩
  · intro h hc
    have e : u = s := starts_quiet s0 h hc
    rw [hf, e]
    exact ⟨statusOnChange_bud s, statusOnChange_others s⟩
  · exact (show u.statusOnChange.refreshOutputs.ShowsStatus u from ⟨(statusOnChange_shows u).1, (statusOnChange_shows u).2⟩).of_shown
      hstart hsh
  · rw [hf]
    show (if u.statusOnChange.lampPattern = u.statusOnChange.sup.lamp.pattern then u.statusOnChange.sup.lamp
      else lampStart u.statusOnChange.lampPattern) = _
    have hl : u.statusOnChange.sup.lamp = s.sup.lamp := by rw [statusOnChange_sup, hlamp]
    rw [hl]
    rfl

/-- Whether a break is armed makes no difference to what follows a state (R13). -/
theorem State.Follows.of_breakArmed {t u : State} {b : Bool} (h : t.Follows { u with line.breakArmed := b }) : t.Follows u := by
  have hA : ∀ c, Alike { u with line.breakArmed := b } u c := fun _ => ⟨rfl, rfl⟩
  refine ⟨h.kept, h.resting, h.held, h.codes, h.unstarted, fun hi c => ?_, fun hi hf => ?_, h.unclaimed, h.quiet,
    ⟨h.status.queued, h.status.unqueued⟩, h.relay, h.lamp⟩
  · rw [← (hA c).startChan.chan]; exact h.started hi c
  · refine (h.formed hi hf).imp id fun e => e.trans ?_
    exact congrArg (List.filter otherNotice) (queueNotice_queue rfl)

end Sys2Proof.Machine
end

