-- ==== Sys2Proof/Laws/Line.lean ====
section
/-! SUPPORT. What the shared operations of the line can do: a recessive reading, a span that is long already, the end of a character, the
release of the own drive. -/

namespace Sys2Proof.Machine

open Sys2Proof

section
variable (s : State)

@[simp] theorem readRecessive_span : s.readRecessive.line.span = none := rfl
@[simp] theorem readRecessive_longSpan : s.readRecessive.longSpan = false := rfl
@[simp] theorem readRecessive_receiver : s.readRecessive.line.receiver = s.line.receiver := rfl
@[simp] theorem readRecessive_flight : s.readRecessive.line.flight = s.line.flight := rfl
@[simp] theorem readRecessive_drive : s.readRecessive.line.drive = s.line.drive := rfl
@[simp] theorem readRecessive_queue : s.readRecessive.line.queue = s.line.queue := rfl

theorem reachSpan11_of_long {s : State} (h : s.longSpan = true) : s.reachSpan11 = s := by simp [State.reachSpan11, h]

@[simp] theorem reachSpan11_longSpan : s.reachSpan11.longSpan = true := by
  unfold State.reachSpan11
  split
  · assumption
  · rfl

/-- With no attempt in flight the end of a character shows the level of its stop bit alone. -/
theorem readChar_of_no_flight {s : State} (h : s.line.flight = none) (taken : Nat) (char : Byte) (stop : Bool) :
    s.readChar taken char stop = if stop = true then s.readRecessive else s := by
  cases stop <;> simp [State.readChar, h]

/-- In an own notice the terminal is released where the character is not the one sent. -/
theorem readChar_of_flight {s : State} {f : Flight} (h : s.line.flight = some f) (taken : Nat) (char : Byte) (stop : Bool) :
    (s.readChar taken char stop).line.drive =
      if stop = true ∧ f.frame[taken]? = some char then s.line.drive else s.line.drive.afterNotice := by
  cases stop <;> by_cases hc : f.frame[taken]? = some char <;> simp [State.readChar, h, hc]

/-! ## The CLAIM in the queue -/

/-- A CLAIM that is withdrawn and not in flight is in the queue no more (R24). -/
theorem withdraw_claim_gone (h : s.inFlight (.claim, none) = false) :
    ∀ e ∈ (s.withdraw (.claim, none)).line.queue, e.notice.key ≠ (.claim, none) := by
  intro e he
  simp only [State.withdraw, h, Bool.false_eq_true, if_false, List.mem_filter, Bool.not_eq_true', decide_eq_false_iff_not] at he
  exact he.2

/-- What is in flight stays in the queue as it is withdrawn, and ends by R12 (R24). -/
theorem withdraw_of_inFlight {key : Kind × Option Zone} (h : s.inFlight key = true) : s.withdraw key = s := by
  simp [State.withdraw, h]

@[simp] theorem withdraw_bud (key : Kind × Option Zone) : (s.withdraw key).bud = s.bud := by
  unfold State.withdraw; split <;> rfl

@[simp] theorem withdraw_flight (key : Kind × Option Zone) : (s.withdraw key).line.flight = s.line.flight := by
  unfold State.withdraw; split <;> rfl

@[simp] theorem dropClaim_flight : s.dropClaim.line.flight = s.line.flight := by
  unfold State.dropClaim
  simp only
  repeat' split
  all_goals simp

@[simp] theorem dropClaim_own : s.dropClaim.bud.own.state = .none := by
  unfold State.dropClaim
  simp only
  split
  · assumption
  · rfl

/-- What the supply veto and the isolation do to claims: none is live, and no CLAIM waits in the queue but one in flight (R125 to R127). -/
theorem giveUpClaims_spec : s.giveUpClaims.bud.own.state = .none ∧
    (s.inFlight (.claim, none) = false → ∀ e ∈ s.giveUpClaims.line.queue, e.notice.key ≠ (.claim, none)) := by
  refine ⟨by simp [State.giveUpClaims], fun h => withdraw_claim_gone _ ?_⟩
  simpa [State.inFlight] using h

/-- A failed attempt withdraws nothing where the station is not isolated. -/
theorem withdrawIsolated_of_clear (h : s.line.isolation = false) (key : Kind × Option Zone) : s.withdrawIsolated key = s := by
  simp [State.withdrawIsolated, h]

/-- A failed attempt of another notice than CLAIM withdraws nothing. -/
theorem withdrawIsolated_of_other {key : Kind × Option Zone} (h : key ≠ (.claim, none)) : s.withdrawIsolated key = s := by
  simp [State.withdrawIsolated, h]

/-- An isolated station withdraws the CLAIM whose attempt has failed (R127). -/
theorem withdrawIsolated_of_claim (h : s.line.isolation = true) :
    s.withdrawIsolated (.claim, none) = s.withdraw (.claim, none) := by
  simp [State.withdrawIsolated, h]

end

/-! ## The release of a span and of the own drive -/

section
variable {s : State} {len : Nat}

/-- A span under 11 bit times is part of a character (R6). -/
theorem releaseSpan_of_short (h : s.longSpan = false) (hl : s.spanAtLeast len < bitTimes 11) :
    s.releaseSpan len = s.readRecessive := by
  simp [State.releaseSpan, h, hl]

/-- The release of a stuck line ends LINE_STUCK (R8). -/
theorem releaseSpan_of_stuck (h : s.longSpan = true) (hs : s.lineStuckStands = true) :
    s.releaseSpan len = s.endSpan.removeFault 1 := by
  simp [State.releaseSpan, h, reachSpan11_of_long h, hs]

/-- A long span under 400 ms is a break (R7). -/
theorem releaseSpan_of_break (h : s.longSpan = true) (hs : s.lineStuckStands = false) (hl : s.spanAtLeast len < lineMs 400) :
    s.releaseSpan len = s.endSpan := by
  have h1 : ¬lineMs 400 ≤ s.spanAtLeast len := by omega
  have h2 : ¬lineMs 2000 ≤ s.spanAtLeast len := by simp only [lineMs] at hl ⊢; omega
  simp [State.releaseSpan, h, reachSpan11_of_long h, hs, h1, h2]

/-- A long span from 400 ms to under 2000 ms is a hold-down, which starts the general timer (R7, R78). -/
theorem releaseSpan_of_holdDown (h : s.longSpan = true) (hs : s.lineStuckStands = false) (hl : lineMs 400 ≤ s.spanAtLeast len)
    (hu : s.spanAtLeast len < lineMs 2000) : s.releaseSpan len = s.endSpan.startGeneral := by
  have h2 : ¬lineMs 2000 ≤ s.spanAtLeast len := by omega
  simp [State.releaseSpan, h, reachSpan11_of_long h, hs, hl, h2]

/-- With no span seen by the span timer a release passes nothing on (R78). -/
theorem releaseSpan_of_unseen (h : s.longSpan = false) (hn : s.line.span = none) : s.releaseSpan 0 = s.readRecessive :=
  releaseSpan_of_short h (by simp [State.spanAtLeast, hn, bitTimes])

variable (s)

@[simp] theorem releaseTerminal_drive : s.releaseTerminal.line.drive = .released := rfl
@[simp] theorem releaseTerminal_breakTimer : s.releaseTerminal.line.breakTimer = none := rfl
@[simp] theorem releaseTerminal_pulseEndTimer : s.releaseTerminal.line.pulseEndTimer = none := rfl
@[simp] theorem releaseTerminal_span : s.releaseTerminal.line.span = s.line.span := rfl
@[simp] theorem releaseTerminal_longSpan : s.releaseTerminal.longSpan = s.longSpan := rfl
@[simp] theorem releaseTerminal_stuck : s.releaseTerminal.lineStuckStands = s.lineStuckStands := rfl
@[simp] theorem releaseTerminal_spanAtLeast (n : Nat) : s.releaseTerminal.spanAtLeast n = s.spanAtLeast n := rfl
@[simp] theorem lineAtRelease_none : s.lineAtRelease none = s := rfl
@[simp] theorem lineAtRelease_some (n : Nat) : s.lineAtRelease (some n) = s.releaseSpan (bitTimes n) := rfl
@[simp] theorem spanOfBreak_longSpan : s.spanOfBreak.longSpan = true := reachSpan11_longSpan s

/-- PULSE_END releases the terminal, and classifies the span that the timer has seen where the line is then recessive (R7, R14, R78). -/
theorem execPulseEnd_next (released : Option Nat) (h : s.line.drive = .holdDown) (ht : s.line.pulseEndTimer.isSome = true) :
    execPulseEnd released s = .next ((s.releaseTerminal.lineAtRelease released).finish s) := by
  simp [execPulseEnd, h, ht]

/-- PULSE_BEGIN with LINE_STUCK clear starts the general timer, whether or not the drive reaches the line (R14, R78). -/
theorem execPulseBegin_next (h : s.mayPulse = true) (hs : s.lineStuckStands = false) :
    execPulseBegin s = .next (({ s with
      line.pulseRequested := false, line.drive := .holdDown, line.breakTimer := none, line.pulseEndTimer := some 600
      line.span := s.spanAtPulse }.startGeneral).finish s) := by
  simp [execPulseBegin, h, hs]

end

/-! ## Levels -/

@[simp] theorem lineChar_length (b : Byte) : (lineChar b).length = 10 := rfl

@[simp] theorem lineChars_nil : lineChars [] = [] := rfl

@[simp] theorem lineChars_cons (b : Byte) (rest : List Byte) : lineChars (b :: rest) = lineChar b ++ lineChars rest := rfl

@[simp] theorem sentLevels_length (sent read : List Bool) : (sentLevels sent read).length = sent.length := by
  induction sent generalizing read with
  | nil => cases read <;> rfl
  | cons d rest ih =>
    cases read with
    | nil => rfl
    | cons r read => by_cases h : d = r <;> simp [sentLevels, h, ih]

end Sys2Proof.Machine
end

