-- ==== Sys2Proof/Laws/Redemands.lean ====
section
/-! SUPPORT. A command that changes the causes of demands says once all it can do: the sources of the channels are handed over, and the
end of the command follows (State.Redemands). -/

namespace Sys2Proof.Machine

open Sys2Proof

/-! ## One channel -/

theorem chan_onPresent (s : State) (g : Chan → Channel → Channel) (c : Chan) :
    (s.onPresent g).chan c = if (s.chan c).state = .absent then s.chan c else g c (s.chan c) := by
  cases c <;> rfl

theorem onPresent_kept (s : State) (g : Chan → Channel → Channel) : (s.onPresent g).kept = s.kept := rfl

/-- A winner depends on the supply veto, the strokes and the channel alone. -/
theorem winner_of_state {s t : State} {c : Chan} (hcfg : t.cfg = s.cfg) (hlow : t.sup.low = s.sup.low)
    (hhigh : t.sup.high = s.sup.high) (hc : t.chan c = s.chan c) : t.winner c = s.winner c := by
  unfold State.winner State.supplyVeto State.strokeKnown State.chFields State.fields
  rw [hc, hcfg, hlow, hhigh]

theorem recompute_same {s : State} {c : Chan} (h : (s.chan c).state = .absent ∨ s.winner c = (s.chan c).dem.win) :
    s.recompute c = s := by
  unfold State.recompute
  rcases h with h | h
  · rw [if_pos h]
  · rw [if_pos h]; split <;> rfl

/-- What a hand-over does to its channel: its sources are the new ones, and where the winner does not change nothing else is. -/
theorem handOver_chan (s : State) (c : Chan) (f : Sources → Sources) :
    ((s.chan c).state = .absent → (s.handOver c f).chan c = s.chan c) ∧
    ((s.chan c).state ≠ .absent →
      ((s.handOver c f).chan c).held = ({ s.chan c with src := f (s.chan c).src } : Channel).held ∧
      ((s.modChan c (fun k => { k with src := f k.src })).winner c = (s.chan c).dem.win →
        (s.handOver c f).chan c = { s.chan c with src := f (s.chan c).src })) := by
  unfold State.handOver
  constructor
  · intro h; rw [if_pos h]
  · intro h
    rw [if_neg h]
    constructor
    · rw [recompute_held, chan_modChan_self]
    · intro hw
      rw [recompute_same (Or.inr (by rw [hw, chan_modChan_self]))]
      exact chan_modChan_self s c _

@[simp] theorem handOver_shown (s : State) (c : Chan) (f : Sources → Sources) : (s.handOver c f).shown = s.shown := by
  unfold State.handOver; split <;> simp

/-! ## The own claim while demands are posted -/

/-- Of the start budget, what posting leaves: an isolated start is allowed as before, and the own claim has ended or stands in its state with
no channel more. -/
structure Lighter (t s : State) : Prop where
  iso : t.bud.isoOpen = s.bud.isoOpen
  own : t.bud.own.state = .none ∨ (t.bud.own.state = s.bud.own.state ∧
    ∀ c, t.bud.own.channels.get c = true → s.bud.own.channels.get c = true)

theorem Lighter.of_bud {t s : State} (h : t.bud = s.bud) : Lighter t s :=
  ⟨by rw [h], Or.inr ⟨by rw [h], fun _ => by rw [h]; exact id⟩⟩

theorem Lighter.trans {r t s : State} (h : Lighter r t) (h' : Lighter t s) : Lighter r s := by
  refine ⟨h.iso.trans h'.iso, ?_⟩
  rcases h.own with e | ⟨e, f⟩
  · exact Or.inl e
  · rcases h'.own with e' | ⟨e', f'⟩
    · exact Or.inl (e.trans e')
    · exact Or.inr ⟨e.trans e', fun c hc => f' c (f c hc)⟩

theorem Lighter.not_deferred {t s : State} (h : Lighter t s) {c : Chan}
    (hs : s.bud.own.state ≠ .deferred ∨ s.bud.own.channels.get c = false) :
    t.bud.own.state ≠ .deferred ∨ t.bud.own.channels.get c = false := by
  rcases h.own with e | ⟨e, f⟩
  · left; rw [e]; decide
  · rcases hs with hs | hs
    · left; rw [e]; exact hs
    · right
      cases hb : t.bud.own.channels.get c with
      | false => rfl
      | true => rw [f c hb] at hs; cases hs

section
variable (s : State) (c : Chan)

theorem dropClaim_lighter : Lighter s.dropClaim s := by
  have hw : ∀ (v : State) k, (v.withdraw k).bud = v.bud := by intro v k; unfold State.withdraw; split <;> rfl
  unfold State.dropClaim
  split
  · exact Lighter.of_bud rfl
  · refine ⟨?_, Or.inl rfl⟩
    simp only
    split
    · rw [hw]
    · rfl

theorem leaveClaim_lighter : Lighter (s.leaveClaim c) s := by
  unfold State.leaveClaim
  simp only
  split
  · split
    · exact dropClaim_lighter s
    · refine ⟨rfl, Or.inr ⟨rfl, fun d hd => ?_⟩⟩
      by_cases h : d = c
      · subst h; simp at hd
      · rwa [Four.get_set_ne _ _ h] at hd
  · exact Lighter.of_bud rfl

theorem testReference_bud : (s.testReference c).bud = s.bud := by
  unfold State.testReference State.formReference; simp only; split <;> rfl

theorem takeAtRest_bud (w : Winner) : (s.takeAtRest c w).bud = s.bud := by
  unfold State.takeAtRest State.formReference; repeat' split
  all_goals rfl

theorem withdrawChan_lighter : Lighter (s.withdrawChan c) s := by
  unfold State.withdrawChan
  exact (Lighter.of_bud (testReference_bud _ c)).trans ((leaveClaim_lighter _ c).trans (Lighter.of_bud rfl))

theorem recompute_lighter : Lighter (s.recompute c) s := by
  unfold State.recompute State.take State.takeRunning State.takeWaiting State.takeWaitingReferenced
    State.takeWaitingUnreferenced State.replaceOrdinary State.takeReferencing State.stopReference State.stopToRest
    State.stopToReverse State.takeReversing State.takeFaulted
  repeat' split
  all_goals first
    | exact Lighter.of_bud rfl
    | exact Lighter.of_bud ((testReference_bud _ c).trans rfl)
    | exact Lighter.of_bud ((takeAtRest_bud _ c _).trans rfl)
    | exact (withdrawChan_lighter _ c).trans (Lighter.of_bud rfl)

theorem handOver_lighter (f : Sources → Sources) : Lighter (s.handOver c f) s := by
  unfold State.handOver; split
  · exact Lighter.of_bud rfl
  · exact (recompute_lighter _ c).trans (Lighter.of_bud rfl)

theorem handVentilate_lighter : Lighter (s.handVentilate c) s := by
  unfold State.handVentilate; split
  · exact Lighter.of_bud rfl
  · exact handOver_lighter s c _

theorem handFire_lighter : Lighter (s.handFire c) s := by
  unfold State.handFire; split
  · exact Lighter.of_bud rfl
  · exact handOver_lighter s c _

theorem handWeather_lighter : Lighter (s.handWeather c) s := by
  unfold State.handWeather; split
  · exact Lighter.of_bud rfl
  · exact handOver_lighter s c _

theorem refreshFireChan_lighter : Lighter (s.refreshFireChan c) s := by
  unfold State.refreshFireChan; split
  · exact Lighter.of_bud rfl
  · exact (handFire_lighter _ c).trans (Lighter.of_bud rfl)

theorem refreshWind_lighter : Lighter (s.refreshWind c) s := by
  unfold State.refreshWind; split
  · exact Lighter.of_bud rfl
  · exact (handFire_lighter _ c).trans ((handVentilate_lighter _ c).trans (Lighter.of_bud rfl))

theorem eachChan_lighter {f : Chan → State → State} (h : ∀ c s, Lighter (f c s) s) : Lighter (s.eachChan f) s :=
  (h _ _).trans ((h _ _).trans ((h _ _).trans (h _ _)))

end

/-- A source handed over where it differs, to a channel that its winner follows, is posted as the winner is recomputed (R92). -/
theorem handIf_posted {t u : State} {c : Chan} {f : Sources → Sources} {b : Prop} [Decidable b]
    (ha : (t.chan c).state ≠ .absent) (hw : t.winner c = (t.chan c).dem.win) (hb : b → f (t.chan c).src = (t.chan c).src)
    (hs : t.settings = u.settings) (hu : u.chan c = { t.chan c with src := f (t.chan c).src }) :
    (if b then t else t.handOver c f).chan c = (u.recompute c).chan c := by
  split
  · rename_i h
    have e : u.chan c = t.chan c := by rw [hu, hb h]
    have hA : Alike t u c := ⟨hs, e.symm⟩
    rw [recompute_same (Or.inr (by rw [← hA.winner, hw, e])), e]
  · unfold State.handOver
    rw [if_neg ha]
    have hA : Alike (t.modChan c (fun k => { k with src := f k.src })) u c := ⟨hs, by rw [chan_modChan_self, hu]⟩
    exact hA.recompute.chan

/-! ## Every channel -/

/-- An operation that hands sources over to one channel: it leaves the others, the rest of the state and what shows the station alone,
and does to its channel what g says but for a changed winner. -/
structure HandsOver (s1 : State) (f : Chan → State → State) (g : Chan → Channel → Channel) : Prop where
  kept : ∀ c s, (f c s).kept = s.kept
  shown : ∀ c s, (f c s).shown = s.shown
  other : ∀ c d s, d ≠ c → (f c s).chan d = s.chan d
  absent : ∀ c s, (s.chan c).state = .absent → (f c s).chan c = s.chan c
  present : ∀ c s, s.kept = s1.kept → s.chan c = s1.chan c → (s1.chan c).state ≠ .absent →
    ((f c s).chan c).held = (g c (s1.chan c)).held ∧
    ((s1.onPresent g).winner c = (g c (s1.chan c)).dem.win → (f c s).chan c = g c (s1.chan c))
  lighter : ∀ c s, Lighter (f c s) s
  posted : ∀ c s, s.kept = s1.kept → s.chan c = s1.chan c → (s1.chan c).state ≠ .absent →
    s1.winner c = (s1.chan c).dem.win → (s1.chan c).src.near (g c (s1.chan c)).src = true →
    (f c s).chan c = ((s1.onPresent g).recompute c).chan c

theorem eachChan_kept {s1 : State} {f : Chan → State → State} (h : ∀ c s, (f c s).kept = s.kept) :
    (s1.eachChan f).kept = s1.kept := by
  simp [State.eachChan, h]

/-- A channel meets its own hand-over once, with the channel as it was. -/
theorem HandsOver.chan {s1 : State} {f : Chan → State → State} {g : Chan → Channel → Channel} (h : HandsOver s1 f g)
    (c : Chan) : ∃ s, s.kept = s1.kept ∧ s.chan c = s1.chan c ∧ (s1.eachChan f).chan c = (f c s).chan c := by
  unfold State.eachChan
  cases c
  · refine ⟨s1, rfl, rfl, ?_⟩
    rw [h.other _ _ _ (by decide), h.other _ _ _ (by decide), h.other _ _ _ (by decide)]
  · refine ⟨f .one s1, h.kept _ _, h.other _ _ _ (by decide), ?_⟩
    rw [h.other _ _ _ (by decide), h.other _ _ _ (by decide)]
  · refine ⟨f .two (f .one s1), by rw [h.kept, h.kept],
      by rw [h.other _ _ _ (by decide), h.other _ _ _ (by decide)], ?_⟩
    rw [h.other _ _ _ (by decide)]
  · exact ⟨f .three (f .two (f .one s1)), by rw [h.kept, h.kept, h.kept],
      by rw [h.other _ _ _ (by decide), h.other _ _ _ (by decide), h.other _ _ _ (by decide)], rfl⟩

theorem HandsOver.held {s1 : State} {f : Chan → State → State} {g : Chan → Channel → Channel} (h : HandsOver s1 f g)
    (c : Chan) : ((s1.eachChan f).chan c).held = ((s1.onPresent g).chan c).held := by
  obtain ⟨s, hk, hc, he⟩ := h.chan c
  rw [he, chan_onPresent]
  split
  · rename_i ha; rw [h.absent c s (by rw [hc]; exact ha), hc]
  · rename_i ha; exact (h.present c s hk hc ha).1

theorem HandsOver.settled {s1 : State} {f : Chan → State → State} {g : Chan → Channel → Channel} (h : HandsOver s1 f g)
    (hg : ∀ c k, (g c k).state = k.state) (c : Chan)
    (hw : ((s1.onPresent g).chan c).state = .absent ∨ (s1.onPresent g).winner c = ((s1.onPresent g).chan c).dem.win) :
    (s1.eachChan f).chan c = (s1.onPresent g).chan c := by
  obtain ⟨s, hk, hc, he⟩ := h.chan c
  rw [he]
  rw [chan_onPresent] at hw ⊢
  split at hw
  · rename_i ha
    rw [if_pos ha, h.absent c s (by rw [hc]; exact ha), hc]
  · rename_i ha
    rw [if_neg ha]
    rcases hw with hw | hw
    · exact absurd (by rw [hg] at hw; exact hw) ha
    · exact (h.present c s hk hc ha).2 hw

/-- The end of a command whose state relates so to another one. -/
theorem finish_redemands {x u s s0 : State} (hk : x.kept = u.kept) (hh : ∀ c, (x.chan c).held = (u.chan c).held)
    (hs : ∀ c, (u.chan c).state = .absent ∨ u.winner c = (u.chan c).dem.win → x.chan c = u.chan c)
    (hb : Lighter x u)
    (hp : ∀ c, (u.chan c).state ≠ .absent → s.winner c = (s.chan c).dem.win → (s.chan c).src.near (u.chan c).src = true →
      (s.chan c).lim.veto = (u.chan c).lim.veto ∨ (s.chan c).dem.movement.map Movement.kind ≠ some .reference →
      x.chan c = (u.recompute c).chan c)
    (hl : x.shown = u.shown) : (x.finish s0).Redemands s u := by
  have h := finish_follows x s0
  refine ⟨h.kept.trans hk, fun c => (h.held c).trans (hh c), ?_, ?_, h.status.of_shown (starting_of_kept hk) hl, h.relay, ?_⟩
  · intro c hn hw
    have hx := hs c hw
    rw [h.resting c (by rw [hx]; exact hn), hx]
  · intro hi c ha hw hn hv
    have hx := hp c ha hw hn hv
    have hxi : x.bud.isoOpen = false := hb.iso.trans hi
    refine ⟨fun hd => (h.unstarted hxi c (hb.not_deferred hd)).trans hx, ?_⟩
    have hA : Alike x (u.recompute c) c := Alike.of_kept (hk.trans (recompute_kept u c).symm) hx
    have := h.started (Or.inl hxi) c
    rwa [hA.startChan.chan, hx] at this
  · have e : x.sup.lamp = u.sup.lamp := congrArg (·.2.1) hl
    rw [← e]; exact h.lamp

/-- Whether a break is armed makes no difference to what follows a change of the causes of demands (R13). -/
theorem State.Redemands.of_breakArmed {t s u : State} {b : Bool} (h : t.Redemands s { u with line.breakArmed := b }) :
    t.Redemands s u := by
  have hA : ∀ c, Alike { u with line.breakArmed := b } u c := fun _ => ⟨rfl, rfl⟩
  refine ⟨h.kept, h.held, h.settled, fun hi c ha hw hn hv => ?_, ⟨h.status.queued, h.status.unqueued⟩, h.relay, h.lamp⟩
  rw [← (hA c).recompute.chan, ← (hA c).recompute.startChan.chan]
  exact h.posted hi c ha hw hn hv

/-- The end of a command that hands sources over to every channel. -/
theorem HandsOver.finish {s s1 : State} {f : Chan → State → State} {g : Chan → Channel → Channel} (h : HandsOver s1 f g)
    (hg : ∀ c k, (g c k).state = k.state) (hs : ∀ c, Alike s s1 c) (s0 : State) :
    ((s1.eachChan f).finish s0).Redemands s (s1.onPresent g) := by
  refine finish_redemands (eachChan_kept h.kept) h.held (h.settled hg)
    ((eachChan_lighter s1 h.lighter).trans (Lighter.of_bud rfl)) ?_ ?_
  · intro c ha hw hn _
    have hp : (s1.chan c).state ≠ .absent := fun e => ha (by rw [chan_onPresent, if_pos e]; exact e)
    rw [chan_onPresent, if_neg hp, (hs c).chan] at hn
    rw [(hs c).winner, (hs c).chan] at hw
    obtain ⟨v, hk, hc, he⟩ := h.chan c
    rw [he]
    exact h.posted c v hk hc hp hw hn
  show _ = s1.shown
  simp [State.eachChan, h.shown]

/-! ## Sources partly changed -/

/-- Where the first present of two entries and a rest is the same before and after, it is so with either entry. -/
theorem or_mix {α : Type} {src : Source} {oa ob om : Option α} {ra rb rm : Option (Source × α)} (hm : om = oa ∨ om = ob)
    (na : ∀ t, ra ≠ some (src, t)) (nb : ∀ t, rb ≠ some (src, t))
    (h : (oa.map (Prod.mk src)).or ra = (ob.map (Prod.mk src)).or rb) (hr : ra = rb → rm = rb) :
    (om.map (Prod.mk src)).or rm = (ob.map (Prod.mk src)).or rb := by
  cases oa <;> cases ob <;> rcases hm with rfl | rfl <;> simp_all
  all_goals exact absurd h.symm (nb _)

/-- The winner of a channel with its stroke known or not, as the first present of the six sources in their order. -/
theorem winner_or (known : Bool) (k : Channel) :
    k.winner.map (fun w => (w.1, endTarget known w.2)) =
      ((k.src.override.map (fun t => endTarget known (.pos t))).map (Prod.mk Source.override)).or
        (((k.src.fire.map (endTarget known)).map (Prod.mk Source.fire)).or
          (((if k.src.weather then some (endTarget known (.pos 0)) else none).map (Prod.mk Source.weather)).or
            (((if k.lim.veto then none else k.src.localKey.map (fun t => endTarget known (.pos t))).map
                (Prod.mk Source.localKey)).or
              (((if k.lim.veto then none else k.src.ventilate.map (fun t => endTarget known (.pos t))).map
                  (Prod.mk Source.ventilate)).or
                ((if k.lim.veto then none else k.drv.jog.map (fun j => endTarget known (.pos j.target))).map
                  (Prod.mk Source.jog)))))) := by
  unfold Channel.winner
  cases k.src.override <;> cases k.src.fire <;> cases k.src.weather <;> cases k.lim.veto <;> cases k.src.localKey <;>
    cases k.src.ventilate <;> cases k.drv.jog <;> rfl

/-- A channel whose sources are partly those before a change and partly those after it has the winner that both have. -/
theorem winner_mix (known : Bool) {a b m : Channel}
    (he : a.src.override = b.src.override) (hm : m.src.override = b.src.override)
    (hl : a.lim.veto = b.lim.veto) (hlm : m.lim.veto = b.lim.veto) (hj : a.drv.jog = b.drv.jog) (hjm : m.drv.jog = b.drv.jog)
    (h1 : m.src.fire = a.src.fire ∨ m.src.fire = b.src.fire)
    (h2 : m.src.weather = a.src.weather ∨ m.src.weather = b.src.weather)
    (h3 : m.src.localKey = a.src.localKey ∨ m.src.localKey = b.src.localKey)
    (h4 : m.src.ventilate = a.src.ventilate ∨ m.src.ventilate = b.src.ventilate)
    (h : a.winner.map (fun w => (w.1, endTarget known w.2)) = b.winner.map (fun w => (w.1, endTarget known w.2))) :
    m.winner.map (fun w => (w.1, endTarget known w.2)) = b.winner.map (fun w => (w.1, endTarget known w.2)) := by
  rw [winner_or, winner_or] at h
  rw [winner_or, winner_or, hm, hlm, hjm]
  rw [he, hl, hj] at h
  have no : ∀ {α : Type} (x y : Source) (o : Option α), x ≠ y → ∀ t, o.map (Prod.mk x) ≠ some (y, t) := by
    intro α x y o hxy t; cases o <;> simp [hxy]
  have nor : ∀ {α : Type} (y : Source) (o r : Option (Source × α)), (∀ t, o ≠ some (y, t)) → (∀ t, r ≠ some (y, t)) →
      ∀ t, o.or r ≠ some (y, t) := by
    intro α y o r h1 h2 t; cases o <;> simp_all
  refine or_mix (Or.inl rfl) ?_ ?_ h (fun h => or_mix (h1.imp (congrArg _) (congrArg _)) ?_ ?_ h (fun h =>
    or_mix (h2.imp (fun e => by rw [e]) (fun e => by rw [e])) ?_ ?_ h (fun h =>
      or_mix (h3.imp (fun e => by rw [e]) (fun e => by rw [e])) ?_ ?_ h (fun h =>
        or_mix (h4.imp (fun e => by rw [e]) (fun e => by rw [e])) ?_ ?_ h (fun _ => rfl)))))
  all_goals
    repeat' apply nor
  all_goals exact no _ _ _ (by decide)
/-! ## One hand-over, where the source differs -/

/-- A hand-over made where a source differs. -/
theorem handIf_chan (s : State) (c : Chan) (f : Sources → Sources) (b : Prop) [Decidable b]
    (hb : b → f (s.chan c).src = (s.chan c).src) :
    ((s.chan c).state = .absent → (if b then s else s.handOver c f).chan c = s.chan c) ∧
    ((s.chan c).state ≠ .absent →
      ((if b then s else s.handOver c f).chan c).held = ({ s.chan c with src := f (s.chan c).src } : Channel).held ∧
      ((s.modChan c (fun k => { k with src := f k.src })).winner c = (s.chan c).dem.win →
        (if b then s else s.handOver c f).chan c = { s.chan c with src := f (s.chan c).src })) := by
  have h := handOver_chan s c f
  split
  · rename_i h0
    have e : ({ s.chan c with src := f (s.chan c).src } : Channel) = s.chan c := by rw [hb h0]
    rw [e]
    exact ⟨fun _ => rfl, fun _ => ⟨rfl, fun _ => rfl⟩⟩
  · exact h

section
variable (s : State) (c d : Chan)

@[simp] theorem handLocal_shown : (s.handLocal c).shown = s.shown := by unfold State.handLocal; split <;> simp
@[simp] theorem handVentilate_shown : (s.handVentilate c).shown = s.shown := by unfold State.handVentilate; split <;> simp
@[simp] theorem handFire_shown : (s.handFire c).shown = s.shown := by unfold State.handFire; split <;> simp
@[simp] theorem handWeather_shown : (s.handWeather c).shown = s.shown := by unfold State.handWeather; split <;> simp
@[simp] theorem refreshFireChan_shown : (s.refreshFireChan c).shown = s.shown := by
  unfold State.refreshFireChan; split <;> simp
@[simp] theorem refreshWind_shown : (s.refreshWind c).shown = s.shown := by
  unfold State.refreshWind; split <;> simp

theorem handLocal_other (h : d ≠ c) : (s.handLocal c).chan d = s.chan d := by
  unfold State.handLocal; split
  · rfl
  · exact handOver_other s _ h
theorem handVentilate_other (h : d ≠ c) : (s.handVentilate c).chan d = s.chan d := by
  unfold State.handVentilate; split
  · rfl
  · exact handOver_other s _ h
theorem handFire_other (h : d ≠ c) : (s.handFire c).chan d = s.chan d := by
  unfold State.handFire; split
  · rfl
  · exact handOver_other s _ h
theorem handWeather_other (h : d ≠ c) : (s.handWeather c).chan d = s.chan d := by
  unfold State.handWeather; split
  · rfl
  · exact handOver_other s _ h
theorem refreshFireChan_other (h : d ≠ c) : (s.refreshFireChan c).chan d = s.chan d := by
  unfold State.refreshFireChan; split
  · rfl
  · rw [handFire_other _ _ _ h, chan_modChan_ne _ _ h]
theorem refreshWind_other (h : d ≠ c) : (s.refreshWind c).chan d = s.chan d := by
  unfold State.refreshWind; split
  · rfl
  · rw [handFire_other _ _ _ h, handVentilate_other _ _ _ h, chan_modChan_ne _ _ h]

end

/-- An operation that hands one source over where it differs. -/
theorem handIf_handsOver {s1 : State} {f : Chan → State → State} {v : State → Chan → Sources → Sources}
    {b : State → Chan → Prop} [∀ s c, Decidable (b s c)]
    (hf : ∀ c s, f c s = if b s c then s else s.handOver c (v s c))
    (hb : ∀ s c, b s c → v s c (s.chan c).src = (s.chan c).src)
    (hv : ∀ s c, s.kept = s1.kept → s.chan c = s1.chan c → v s c = v s1 c) :
    HandsOver s1 f (fun c k => { k with src := v s1 c k.src }) where
  kept c s := by rw [hf]; split <;> simp
  shown c s := by rw [hf]; split <;> simp
  other c d s h := by
    rw [hf]; split
    · rfl
    · exact handOver_other s _ h
  absent c s h := by rw [hf]; exact (handIf_chan s c _ _ (hb s c)).1 h
  present c s hk hc ha := by
    have h := (handIf_chan s c (v s c) (b s c) (hb s c)).2 (by rw [hc]; exact ha)
    rw [hf]
    rw [hv s c hk hc, hc] at h
    rw [hv s c hk hc]
    refine ⟨h.1, fun hw => h.2 ?_⟩
    rw [← hw]
    refine winner_of_state (kept_eq hk).2.2.1 (kept_sup hk).2.2.2.2.2.1 (kept_sup hk).2.2.2.2.2.2.1 ?_
    rw [chan_modChan_self, chan_onPresent, if_neg ha, hc]
  lighter c s := by rw [hf]; split; exacts [Lighter.of_bud rfl, handOver_lighter s c _]
  posted c s hk hc ha hw _ := by
    have hA : Alike s s1 c := Alike.of_kept hk hc
    have := handIf_posted (t := s) (u := s1.onPresent (fun c k => { k with src := v s1 c k.src })) (f := v s c) (b := b s c)
      (by rw [hc]; exact ha) (by rw [hA.winner, hw, hc]) (hb s c) hA.settings
      (by rw [chan_onPresent, if_neg ha, hc, hv s c hk hc])
    rw [hf]
    exact this

theorem localSource_kept {s t : State} (hk : s.kept = t.kept) : s.localSource = t.localSource := by
  unfold State.localSource; rw [(kept_sup hk).1, (kept_eq hk).2.2.2.2.2.2.2.1]

theorem ventilateSource_kept {s t : State} {c : Chan} (hk : s.kept = t.kept) (hc : (s.chan c).wind = (t.chan c).wind) :
    s.ventilateSource c = t.ventilateSource c := by
  unfold State.ventilateSource; rw [(kept_sup hk).1, (kept_eq hk).2.2.2.2.2.2.2.1, hc]

theorem closes_kept {s t : State} (hk : s.kept = t.kept) : s.wx.atrium.closes = t.wx.atrium.closes := by
  rw [(kept_eq hk).2.2.2.2.2.1]

/-- The local key's source is handed over to every channel (R91). -/
theorem handLocal_handsOver (s1 : State) :
    HandsOver s1 (fun c s => s.handLocal c) (fun _ k => { k with src.localKey := s1.localSource }) :=
  handIf_handsOver (v := fun s _ src => { src with localKey := s.localSource })
    (b := fun s c => s.localSource = (s.chan c).src.localKey) (fun _ _ => rfl) (fun s c e => by simp only [e])
    (fun s c hk _ => by simp only [localSource_kept hk])

/-- The ventilation source is handed over to every channel (R97). -/
theorem handVentilate_handsOver (s1 : State) :
    HandsOver s1 (fun c s => s.handVentilate c) (fun c k => { k with src.ventilate := s1.ventilateSource c }) :=
  handIf_handsOver (v := fun s c src => { src with ventilate := s.ventilateSource c })
    (b := fun s c => s.ventilateSource c = (s.chan c).src.ventilate) (fun _ _ => rfl) (fun s c e => by simp only [e])
    (fun s c hk hc => by simp only [ventilateSource_kept hk (by rw [hc])])

/-- The weather source is handed over to every channel (R64). -/
theorem handWeather_handsOver (s1 : State) :
    HandsOver s1 (fun c s => s.handWeather c) (fun _ k => { k with src.weather := s1.wx.atrium.closes }) :=
  handIf_handsOver (v := fun s _ src => { src with weather := s.wx.atrium.closes })
    (b := fun s c => (s.chan c).src.weather = s.wx.atrium.closes) (fun _ _ => rfl) (fun s c e => by simp only [← e])
    (fun s c hk _ => by simp only [closes_kept hk])

/-- The effective override is handed over to every channel (R84). -/
theorem handOverride_handsOver (s1 : State) (o : Option Nat) :
    HandsOver s1 (fun c s => s.handOver c (fun src => { src with override := o }))
      (fun _ k => { k with src.override := o }) :=
  handIf_handsOver (v := fun _ _ src => { src with override := o }) (b := fun _ _ => False)
    (fun _ _ => by rw [if_neg not_false]) (fun _ _ e => e.elim) (fun _ _ _ _ => rfl)

theorem zoneAlarmed_kept {s t : State} (hk : s.kept = t.kept) (z : Zone) : s.zoneAlarmed z = t.zoneAlarmed z := by
  unfold State.zoneAlarmed; rw [(kept_eq hk).2.2.2.2.2.2.1]

theorem fireAction_kept {s t : State} (hk : s.kept = t.kept) (c : Chan) : s.fireAction c = t.fireAction c := by
  have hz : ∀ z, s.zoneEntry c z = t.zoneEntry c z := fun z => by
    unfold State.zoneEntry State.fields; rw [zoneAlarmed_kept hk, (kept_eq hk).2.2.1]
  have hg : s.generalEntry c = t.generalEntry c := by
    unfold State.generalEntry State.fields; rw [(kept_eq hk).2.2.2.2.2.2.1, (kept_eq hk).2.2.1]
  unfold State.fireAction
  simp only [hz, hg]

theorem newCapture_kept {s t : State} (hk : s.kept = t.kept) {c : Chan} (hc : s.chan c = t.chan c) (a : FireAction) :
    s.newCapture c a = t.newCapture c a := by
  unfold State.newCapture State.captureNow State.strokeKnown State.position State.stroke State.chFields State.fields
  rw [hc, (kept_eq hk).2.2.1]

/-- What a hand-over of the fire demand does to its channel. -/
theorem handFire_chan (s : State) (c : Chan) (ha : (s.chan c).state ≠ .absent) :
    ((s.handFire c).chan c).held = ({ s.chan c with src.fire := (s.chan c).fireDemand } : Channel).held ∧
      ((s.modChan c (fun k => { k with src.fire := (s.chan c).fireDemand })).winner c = (s.chan c).dem.win →
        (s.handFire c).chan c = { s.chan c with src.fire := (s.chan c).fireDemand }) :=
  (handIf_chan s c (fun src => { src with fire := (s.chan c).fireDemand }) ((s.chan c).fireDemand = (s.chan c).src.fire)
    (fun e => by simp only [e])).2 ha

/-- The fire actions and demands of every channel are recomputed and handed over (R85 to R88). -/
theorem refreshFire_handsOver (s1 : State) :
    HandsOver s1 (fun c s => s.refreshFireChan c)
      (fun c k => k.withFire ⟨s1.fireAction c, s1.newCapture c (s1.fireAction c)⟩) where
  kept c s := refreshFireChan_kept s c
  shown c s := refreshFireChan_shown s c
  other c d s h := refreshFireChan_other s c d h
  absent c s h := by unfold State.refreshFireChan; rw [if_pos h]
  present c s hk hc ha := by
    unfold State.refreshFireChan
    rw [if_neg (by rw [hc]; exact ha)]
    simp only
    rw [fireAction_kept hk, newCapture_kept hk hc]
    generalize hr : ChFire.mk (s1.fireAction c) (s1.newCapture c (s1.fireAction c)) = r
    have hm : (s.modChan c (fun k => { k with fire := r })).chan c = { s1.chan c with fire := r } := by
      rw [chan_modChan_self, hc]
    have h := handFire_chan (s.modChan c (fun k => { k with fire := r })) c (by rw [hm]; exact ha)
    rw [hm] at h
    refine ⟨h.1, fun hw => h.2 ?_⟩
    refine Eq.trans ?_ hw
    refine winner_of_state (kept_eq hk).2.2.1 (kept_sup hk).2.2.2.2.2.1 (kept_sup hk).2.2.2.2.2.2.1 ?_
    rw [chan_modChan_self, hm, chan_onPresent, if_neg ha, hr]
    rfl
  lighter c s := refreshFireChan_lighter s c
  posted c s hk hc ha hw _ := by
    unfold State.refreshFireChan
    rw [if_neg (by rw [hc]; exact ha)]
    simp only
    rw [fireAction_kept hk, newCapture_kept hk hc]
    generalize hr : ChFire.mk (s1.fireAction c) (s1.newCapture c (s1.fireAction c)) = r
    have hm : (s.modChan c (fun k => { k with fire := r })).chan c = { s1.chan c with fire := r } := by
      rw [chan_modChan_self, hc]
    have hA : Alike s s1 c := Alike.of_kept hk hc
    have hW : (s.modChan c (fun k => { k with fire := r })).winner c = (s1.chan c).dem.win := by
      rw [← hw, ← hA.winner]
      unfold State.winner
      rw [hm, ← hc]
      rfl
    unfold State.handFire
    refine handIf_posted (by rw [hm]; exact ha) (by rw [hW, hm]) (fun e => by simp only [e]) hA.settings ?_
    rw [chan_onPresent, if_neg ha, hm, hr]
    rfl

/-! ## A channel that is not ABSENT stays so (R129) -/

section
variable (s : State) (c d : Chan)

theorem modChan_present {f : Channel → Channel} (hf : ∀ k : Channel, k.state ≠ .absent → (f k).state ≠ .absent)
    (h : (s.chan d).state ≠ .absent) : ((s.modChan c f).chan d).state ≠ .absent := by
  by_cases hd : d = c
  · subst hd; rw [chan_modChan_self]; exact hf _ h
  · rw [chan_modChan_ne s _ hd]; exact h

theorem toWaiting_present (k : Channel) (m : Movement) (p : Option Target) : (k.toWaiting m p).state ≠ .absent := by
  simp [Channel.toWaiting]

theorem toRest_present (k : Channel) : k.toRest.state ≠ .absent := by
  show k.restState ≠ .absent
  unfold Channel.restState; split <;> simp

theorem leaveClaim_present (h : (s.chan d).state ≠ .absent) : ((s.leaveClaim c).chan d).state ≠ .absent := by
  rw [leaveClaim_chan]; exact h

theorem testReference_present (h : (s.chan d).state ≠ .absent) : ((s.testReference c).chan d).state ≠ .absent := by
  unfold State.testReference State.formReference; simp only; split
  · exact modChan_present s c d (fun k _ => toWaiting_present k _ _) h
  · exact h

theorem takeAtRest_present (w : Winner) (h : (s.chan d).state ≠ .absent) :
    ((s.takeAtRest c w).chan d).state ≠ .absent := by
  unfold State.takeAtRest State.formReference
  repeat' split
  all_goals first | exact h | exact modChan_present s c d (fun k _ => toWaiting_present k _ _) h

theorem withdrawChan_present (h : (s.chan d).state ≠ .absent) : ((s.withdrawChan c).chan d).state ≠ .absent :=
  testReference_present _ c d (leaveClaim_present _ c d (modChan_present s c d (fun k _ => toRest_present k) h))

theorem takeWaiting_present (w : Winner) (h : (s.chan d).state ≠ .absent) :
    ((s.takeWaiting c w).chan d).state ≠ .absent := by
  unfold State.takeWaiting State.takeWaitingReferenced State.takeWaitingUnreferenced State.replaceOrdinary
  repeat' split
  all_goals first
    | exact h | exact withdrawChan_present s c d h | exact modChan_present s c d (fun k _ => toWaiting_present k _ _) h

theorem setWinner_present (h : (s.chan d).state ≠ .absent) : ((s.setWinner c).chan d).state ≠ .absent :=
  modChan_present s c d (fun _ hk => hk) h

theorem complete_present (e : Option Extreme) (h : (s.chan d).state ≠ .absent) :
    ((s.complete c e).chan d).state ≠ .absent := by
  unfold State.complete; rw [clearChannelCodes_chan]
  exact modChan_present s c d (fun k _ => toRest_present k.release) h

theorem take_present (w : Winner) (h : (s.chan d).state ≠ .absent) : ((s.take c w).chan d).state ≠ .absent := by
  unfold State.take State.takeRunning State.stopToRest State.stopToReverse State.takeReversing State.takeReferencing
    State.stopReference State.takeFaulted State.stopToRest State.stopToReverse
  repeat' split
  all_goals first
    | exact h
    | exact takeAtRest_present s c d w h
    | exact takeWaiting_present s c d w h
    | exact modChan_present s c d (fun _ hk => hk) h
    | exact modChan_present s c d (fun k _ => by simp [Channel.toReversing]) h
    | exact testReference_present _ c d (modChan_present s c d (fun k _ => toRest_present k.release) h)
    | exact takeAtRest_present _ c d _ (modChan_present s c d (fun k _ => toRest_present k.release) h)
    | exact testReference_present _ c d (setWinner_present _ c d (complete_present s c d none h))

theorem recompute_present (h : (s.chan d).state ≠ .absent) : ((s.recompute c).chan d).state ≠ .absent := by
  unfold State.recompute
  repeat' split
  all_goals first
    | exact h | exact setWinner_present s c d h | exact take_present _ c d _ (setWinner_present s c d h)

theorem handOver_present (f : Sources → Sources) (h : (s.chan d).state ≠ .absent) :
    ((s.handOver c f).chan d).state ≠ .absent := by
  unfold State.handOver; split
  · exact h
  · exact recompute_present _ c d (modChan_present s c d (fun _ hk => hk) h)
end
/-! ## The atrium weather record -/

/-- The winner of a state with one channel replaced. -/
theorem winner_setChan (s : State) (c : Chan) (k : Channel) :
    (s.setChan c k).winner c =
      if s.supplyVeto then none else k.winner.map (fun w => (w.1, endTarget (s.strokeKnown c) w.2)) := by
  unfold State.winner; rw [chan_setChan_self]; rfl

theorem fireDemand_held {j k : Channel} (h : j.held = k.held) : j.fireDemand = k.fireDemand := by
  simp only [Channel.held, Prod.mk.injEq] at h
  unfold Channel.fireDemand; rw [h.2.2.1, h.2.2.2.1]

/-- A source handed over where it differs, after hand-overs of the same command that changed no winner: what is held follows, and where the
winner is still the same, the channel does. -/
theorem handIf_step {s t : State} {c : Chan} {k : Channel} {f : Sources → Sources} {b : Prop} [Decidable b]
    (hk : t.kept = s.kept) (hp : (t.chan c).state ≠ .absent) (hb : b → f (t.chan c).src = (t.chan c).src)
    (hh : (t.chan c).held = k.held) :
    ((if b then t else t.handOver c f).chan c).held = ({ k with src := f k.src } : Channel).held ∧
      (t.chan c = k → (s.setChan c { k with src := f k.src }).winner c = k.dem.win →
        (if b then t else t.handOver c f).chan c = { k with src := f k.src }) := by
  have h := (handIf_chan t c f b hb).2 hp
  constructor
  · rw [h.1]
    simp only [Channel.held, Prod.mk.injEq] at hh ⊢
    exact ⟨by rw [hh.1], hh.2⟩
  · intro e hw
    rw [e] at h
    refine h.2 ?_
    rw [← hw]
    refine winner_of_state (kept_eq hk).2.2.1 (kept_sup hk).2.2.2.2.2.1 (kept_sup hk).2.2.2.2.2.2.1 ?_
    rw [chan_modChan_self, chan_setChan_self, e]

theorem handIf_present {t : State} {c : Chan} {f : Sources → Sources} {b : Prop} [Decidable b]
    (hp : (t.chan c).state ≠ .absent) : ((if b then t else t.handOver c f).chan c).state ≠ .absent := by
  split
  · exact hp
  · exact handOver_present t c c f hp

/-- What the record of the atrium weather does to a channel that is not ABSENT: its windward results and the sources that follow them are
the new ones, and where the winner is the same before and after, nothing else of it changes (R64, R69). -/
theorem windWeather_chan (s : State) (c : Chan) (ha : (s.chan c).state ≠ .absent) :
    let k2 := (s.chan c).withWind (s.windAfter s.wx.atrium c) s.ventV s.wx.atrium.closes
    (((s.refreshWind c).handWeather c).chan c).held = k2.held ∧
      (s.winner c = (s.chan c).dem.win → (s.setChan c k2).winner c = (s.chan c).dem.win →
        ((s.refreshWind c).handWeather c).chan c = k2) := by
  intro k2
  let k0 : Channel := { s.chan c with wind := s.windAfter s.wx.atrium c }
  let v := s.ventV.map (fun v => min v k0.wind.limit)
  let s2 := s.modChan c (fun k => { k with wind := s.windAfter s.wx.atrium c })
  have h2 : s2.chan c = k0 := chan_modChan_self s c _
  have hr : s.refreshWind c = (s2.handVentilate c).handFire c := by unfold State.refreshWind; rw [if_neg ha]
  have hV : s2.ventilateSource c = v := by
    unfold State.ventilateSource
    rw [h2]
    show (if s.sup.mode = .service then none else _) = _
    simp only [v, State.ventV]
    split <;> rfl
  have hp2 : (s2.chan c).state ≠ .absent := by rw [h2]; exact ha
  -- the ventilation source
  let s3 := s2.handVentilate c
  have k3 : s3.kept = s.kept := handVentilate_kept s2 c
  have h3 := handIf_step (s := s) (t := s2) (c := c) (k := k0) (f := fun src => { src with ventilate := s2.ventilateSource c })
    (b := s2.ventilateSource c = (s2.chan c).src.ventilate) rfl hp2 (fun e => by simp only [e]) (by rw [h2])
  have hp3 : (s3.chan c).state ≠ .absent := handIf_present hp2
  let k1 : Channel := { k0 with src.ventilate := v }
  change (s3.chan c).held = _ ∧ (_ → _ → s3.chan c = _) at h3
  rw [hV] at h3
  change _ = k1.held ∧ (_ → _ → _ = k1) at h3
  -- the fire demand
  let s4 := s3.handFire c
  have hfd : (s3.chan c).fireDemand = k0.fireDemand := (fireDemand_held h3.1).trans rfl
  have k4 : s4.kept = s.kept := (handFire_kept s3 c).trans k3
  have h4 := handIf_step (s := s) (t := s3) (c := c) (k := k1) (f := fun src => { src with fire := (s3.chan c).fireDemand })
    (b := (s3.chan c).fireDemand = (s3.chan c).src.fire) k3 hp3 (fun e => by simp only [e]) h3.1
  have hp4 : (s4.chan c).state ≠ .absent := handIf_present hp3
  let k1' : Channel := { k1 with src.fire := k0.fireDemand }
  change (s4.chan c).held = _ ∧ (_ → _ → s4.chan c = _) at h4
  rw [hfd] at h4
  change _ = k1'.held ∧ (_ → _ → _ = k1') at h4
  -- the weather source
  have h5 := handIf_step (s := s) (t := s4) (c := c) (k := k1') (f := fun src => { src with weather := s4.wx.atrium.closes })
    (b := (s4.chan c).src.weather = s4.wx.atrium.closes) k4 hp4 (fun e => by simp only [← e]) h4.1
  change ((s4.handWeather c).chan c).held = _ ∧ (_ → _ → (s4.handWeather c).chan c = _) at h5
  rw [closes_kept k4] at h5
  change _ = k2.held ∧ (_ → _ → _ = k2) at h5
  rw [hr]
  refine ⟨h5.1, fun hw0 hw2 => ?_⟩
  have hw : ∀ m : Channel, m.src.override = k2.src.override → m.lim.veto = k2.lim.veto → m.drv.jog = k2.drv.jog →
      (m.src.fire = (s.chan c).src.fire ∨ m.src.fire = k2.src.fire) →
      (m.src.weather = (s.chan c).src.weather ∨ m.src.weather = k2.src.weather) →
      (m.src.localKey = (s.chan c).src.localKey ∨ m.src.localKey = k2.src.localKey) →
      (m.src.ventilate = (s.chan c).src.ventilate ∨ m.src.ventilate = k2.src.ventilate) →
      (s.setChan c m).winner c = (s.chan c).dem.win := by
    intro m e1 e2 e3 e4 e5 e6 e7
    rw [winner_setChan] at hw2 ⊢
    have hs : s.winner c = if s.supplyVeto then none
        else (s.chan c).winner.map (fun w => (w.1, endTarget (s.strokeKnown c) w.2)) := rfl
    rw [hs] at hw0
    split
    · rename_i hv; rw [if_pos hv] at hw0; exact hw0
    · rename_i hv
      rw [if_neg hv] at hw0 hw2
      exact (winner_mix (s.strokeKnown c) (a := s.chan c) (b := k2) (m := m) rfl e1 rfl e2 rfl e3 e4 e5 e6 e7
        (hw0.trans hw2.symm)).trans hw2
  have c3 : s3.chan c = k1 := h3.2 h2 (hw k1 rfl rfl rfl (Or.inl rfl) (Or.inl rfl) (Or.inl rfl) (Or.inr rfl))
  have c4 : s4.chan c = k1' := h4.2 c3 (hw k1' rfl rfl rfl (Or.inr rfl) (Or.inl rfl) (Or.inl rfl) (Or.inr rfl))
  exact h5.2 c4 hw2

theorem windAfter_kept {s t : State} (hk : s.kept = t.kept) {c : Chan} (hc : s.chan c = t.chan c) (r : Atrium) :
    s.windAfter r c = t.windAfter r c := by
  unfold State.windAfter State.chFields State.fields; rw [hc, (kept_eq hk).2.2.1]

theorem ventV_kept {s t : State} (hk : s.kept = t.kept) : s.ventV = t.ventV := by
  unfold State.ventV; rw [(kept_sup hk).1, (kept_eq hk).2.2.2.2.2.2.2.1]

/-- Of three sources that are given anew two are as they were, where at most one differs. -/
theorem near_three {a : Sources} {f : Option Target} {w : Bool} {v : Option Nat}
    (h : a.near { a with fire := f, weather := w, ventilate := v } = true) :
    (a.fire = f ∧ a.weather = w) ∨ (a.fire = f ∧ a.ventilate = v) ∨ (a.weather = w ∧ a.ventilate = v) := by
  unfold Sources.near at h
  by_cases h1 : a.fire = f <;> by_cases h2 : a.weather = w <;> by_cases h3 : a.ventilate = v <;> simp [h1, h2, h3] at h ⊢

/-- Where one source of a channel changes with the record of the atrium weather, its winner is posted as it is recomputed. -/
theorem windWeather_posted {s s1 : State} {c : Chan} {g : Chan → Channel → Channel} (hk : s.kept = s1.kept)
    (hc : s.chan c = s1.chan c) (ha : (s1.chan c).state ≠ .absent) (hw : s1.winner c = (s1.chan c).dem.win)
    (hg : g c (s1.chan c) = (s1.chan c).withWind (s1.windAfter s1.wx.atrium c) s1.ventV s1.wx.atrium.closes)
    (hn : (s1.chan c).src.near (g c (s1.chan c)).src = true) :
    ((s.refreshWind c).handWeather c).chan c = ((s1.onPresent g).recompute c).chan c := by
  generalize hu : s1.onPresent g = u
  generalize hkc : s1.chan c = k at *
  have huc : u.chan c = g c k := by rw [← hu, chan_onPresent, hkc, if_neg ha]
  have hset : s.settings = u.settings := (settings_of_kept hk).trans (by rw [← hu]; rfl)
  have hx : s.wx = s1.wx := (kept_eq hk).2.2.2.2.2.1
  have hr : s.refreshWind c =
      ((s.modChan c (fun k => { k with wind := s.windAfter s.wx.atrium c })).handVentilate c).handFire c := by
    unfold State.refreshWind; rw [if_neg (by rw [hc]; exact ha)]
  rw [hr, hx, windAfter_kept hk (hc.trans hkc.symm)]
  generalize hwd : s1.windAfter s1.wx.atrium c = w at *
  generalize ht : s.modChan c (fun k => { k with wind := w }) = t
  have htc : t.chan c = { k with wind := w } := by rw [← ht, chan_modChan_self, hc]
  have htk : t.kept = s1.kept := by rw [← ht]; exact hk
  have hts : t.settings = u.settings := by rw [← hset, ← ht]; rfl
  have htw : t.winner c = (t.chan c).dem.win := by
    rw [htc]
    show _ = k.dem.win
    rw [← hw, ← (Alike.of_kept hk (hc.trans hkc.symm)).winner]
    unfold State.winner
    rw [htc, hc, ← ht]
    rfl
  have hpt : (t.chan c).state ≠ .absent := by rw [htc]; exact ha
  have hV : ∀ v : State, v.kept = s1.kept → (v.chan c).wind = w → v.ventilateSource c = s1.ventV.map (fun v => min v w.limit) := by
    intro v hvk hvw
    rw [← ventV_kept hvk]
    unfold State.ventilateSource State.ventV
    rw [hvw]
    split <;> rfl
  have hC : ∀ v : State, v.kept = s1.kept → v.wx.atrium.closes = s1.wx.atrium.closes := fun v hvk => closes_kept hvk
  -- the three sources of the new channel
  have hgs : (u.chan c).src = { k.src with
      ventilate := s1.ventV.map (fun v => min v w.limit), fire := ({ k with wind := w } : Channel).fireDemand,
      weather := s1.wx.atrium.closes } := by rw [huc, hg]; rfl
  rw [hg] at hn
  -- a channel that has been posted holds what the new one holds, so that nothing more is handed over
  have hF : ∀ v : State, (v.chan c).held = (u.chan c).held → v.handFire c = v := by
    intro v hh
    unfold State.handFire
    rw [if_pos]
    rw [fireDemand_held hh]
    simp only [Channel.held, Prod.mk.injEq] at hh
    rw [hh.1, hgs, huc, hg]; rfl
  have hW : ∀ v : State, v.kept = s1.kept → (v.chan c).held = (u.chan c).held → v.handWeather c = v := by
    intro v hvk hh
    unfold State.handWeather
    rw [if_pos]
    simp only [Channel.held, Prod.mk.injEq] at hh
    rw [hh.1, hgs, hC v hvk]
  have hchan : ∀ a : Sources, a = (u.chan c).src → u.chan c = { k with wind := w, src := a } := by
    intro a e; rw [e, hgs, huc, hg]; rfl
  have hn' := near_three (a := k.src) hn
  have posted_held : ∀ v : State, v.chan c = (u.recompute c).chan c → (v.chan c).held = (u.chan c).held := by
    intro v e; rw [e, recompute_held]
  rcases hn' with ⟨e1, e2⟩ | ⟨e1, e2⟩ | ⟨e1, e2⟩
  · -- the ventilation source
    have p : (t.handVentilate c).chan c = (u.recompute c).chan c := by
      unfold State.handVentilate
      refine handIf_posted hpt htw (fun e => by simp only [e]) hts ?_
      rw [htc]
      refine hchan _ ?_
      rw [hgs, hV t htk (by rw [htc])]
      simp only [e1, e2]
    have hh := posted_held _ p
    rw [hF _ hh, hW _ ((handVentilate_kept t c).trans htk) hh]
    exact p
  · -- the weather source
    have e3 : t.handVentilate c = t := by
      unfold State.handVentilate
      rw [if_pos]
      rw [hV t htk (by rw [htc]), htc]; exact e2.symm
    have e4 : t.handFire c = t := by
      unfold State.handFire
      rw [if_pos]
      rw [htc]; exact e1.symm
    rw [e3, e4]
    unfold State.handWeather
    refine handIf_posted hpt htw (fun e => by simp only [← e]) hts ?_
    rw [htc]
    refine hchan _ ?_
    rw [hgs, hC t htk]
    simp only [e1, e2]
  · -- the fire demand
    have e3 : t.handVentilate c = t := by
      unfold State.handVentilate
      rw [if_pos]
      rw [hV t htk (by rw [htc]), htc]; exact e2.symm
    rw [e3]
    have p : (t.handFire c).chan c = (u.recompute c).chan c := by
      unfold State.handFire
      refine handIf_posted hpt htw (fun e => by simp only [e]) hts ?_
      rw [htc]
      refine hchan _ ?_
      rw [hgs]
      simp only [e1, e2]
    rw [hW _ ((handFire_kept t c).trans htk) (posted_held _ p)]
    exact p

/-- The record of the atrium weather is taken by every channel, in a state whose winners follow their sources. -/
theorem windWeather_handsOver (s1 : State) (h : ∀ c, (s1.chan c).state ≠ .absent → s1.winner c = (s1.chan c).dem.win) :
    HandsOver s1 (fun c s => (s.refreshWind c).handWeather c)
      (fun c k => k.withWind (s1.windAfter s1.wx.atrium c) s1.ventV s1.wx.atrium.closes) where
  kept c s := (handWeather_kept _ c).trans (refreshWind_kept s c)
  shown c s := (handWeather_shown _ c).trans (refreshWind_shown s c)
  other c d s hd := (handWeather_other _ c d hd).trans (refreshWind_other s c d hd)
  absent c s ha := by
    have hr : s.refreshWind c = s := by unfold State.refreshWind; rw [if_pos ha]
    rw [hr]; unfold State.handWeather
    exact (handIf_chan s c _ _ (fun e => by simp only [← e])).1 ha
  present c s hk hc ha := by
    have hw := windWeather_chan s c (by rw [hc]; exact ha)
    simp only at hw
    have hx : s.wx = s1.wx := (kept_eq hk).2.2.2.2.2.1
    rw [hc, windAfter_kept hk hc, ventV_kept hk, hx] at hw
    refine ⟨hw.1, fun e => hw.2 ?_ ?_⟩
    · rw [winner_of_state (kept_eq hk).2.2.1 (kept_sup hk).2.2.2.2.2.1 (kept_sup hk).2.2.2.2.2.2.1 hc]
      exact h c ha
    · refine Eq.trans ?_ e
      refine winner_of_state (kept_eq hk).2.2.1 (kept_sup hk).2.2.2.2.2.1 (kept_sup hk).2.2.2.2.2.2.1 ?_
      rw [chan_setChan_self, chan_onPresent, if_neg ha]
  lighter c s := (handWeather_lighter _ c).trans (refreshWind_lighter s c)
  posted c s hk hc ha hw hn :=
    windWeather_posted (g := fun c k => k.withWind (s1.windAfter s1.wx.atrium c) s1.ventV s1.wx.atrium.closes) hk hc ha hw rfl hn

end Sys2Proof.Machine
end

