-- ==== Sys2Proof/Laws/Service.lean ====
section
/-! SUPPORT. What the test of a request can do: nothing outside SERVICE mode, one reply of refusal, or the request itself. -/

namespace Sys2Proof.Machine

open Sys2Proof

variable {s : State} {inRange : Bool} {act : State → State}

@[simp] theorem serve_outside (h : s.sup.mode ≠ .service) : s.serve inRange act = s := by
  simp [State.serve, State.inService, h]

theorem serve_busy (h : s.sup.mode = .service) (hp : s.svc.programming.isSome = true) :
    s.serve inRange act = s.refuse .busy := by
  simp [State.serve, State.inService, h, hp]

theorem serve_outOfRange (h : s.sup.mode = .service) (hp : s.svc.programming = none) :
    s.serve false act = s.refuse .badIndex := by
  simp [State.serve, State.inService, h, hp]

theorem serve_accepted (h : s.sup.mode = .service) (hp : s.svc.programming = none) : s.serve true act = act s := by
  simp [State.serve, State.inService, h, hp]

/-- Everything that the test of a request can do (R175). -/
theorem serve_cases (s : State) (inRange : Bool) (act : State → State) :
    (s.sup.mode ≠ .service ∧ s.serve inRange act = s) ∨
    (s.sup.mode = .service ∧ s.svc.programming.isSome = true ∧ s.serve inRange act = s.refuse .busy) ∨
    (s.sup.mode = .service ∧ s.svc.programming = none ∧ inRange = false ∧ s.serve inRange act = s.refuse .badIndex) ∨
    (s.sup.mode = .service ∧ s.svc.programming = none ∧ inRange = true ∧ s.serve inRange act = act s) := by
  by_cases h : s.sup.mode = .service
  · cases hp : s.svc.programming with
    | some n => exact .inr (.inl ⟨h, rfl, serve_busy h (by simp [hp])⟩)
    | none =>
      cases inRange with
      | false => exact .inr (.inr (.inl ⟨h, rfl, rfl, serve_outOfRange h hp⟩))
      | true => exact .inr (.inr (.inr ⟨h, rfl, rfl, serve_accepted h hp⟩))
  · exact .inl ⟨h, serve_outside h⟩

end Sys2Proof.Machine
end

