-- ==== Sys2Proof/WellFormed.lean ====
section
/-! DEFINITION. Which commands the part's surroundings can send: a bay is one of 1 to 32 (R20), the characters of a notice are at
most 29 (R3, R20), and a request has at most 258 bytes (R174). Commands that are not well-formed still have a meaning. -/

namespace Sys2Proof

/-- A bay number of the roof. -/
def bayWf (bay : Nat) : Bool := decide (1 ≤ bay) && decide (bay ≤ 32)

/-- A command that the part's surroundings can send. -/
def Instr.wf : Instr → Bool
  | .noticeReceived rest => decide (rest.length ≤ 29)
  | .reportExpiry bay => bayWf bay
  | .entryStale bay => bayWf bay
  | .entryRemoval bay => bayWf bay
  | .overrideOriginExpiry bay => bayWf bay
  | .ventilationOriginExpiry bay => bayWf bay
  | .itemAgeOut bay => bayWf bay
  | .badCommandRequest bytes => decide (bytes.length ≤ 258)
  | _ => true

end Sys2Proof
end

