-- ==== Sys2Proof/Tests/Slice0.lean ====
section
/-! SUPPORT. Tests of the model against the spec's own numbers, each about one operation or one step, and a witness of the
hypotheses of every obligation that has them. -/

namespace Sys2Proof.Machine.Tests

open Sys2Proof Sys2Proof.Machine

-- One theorem is checked after another, since the kernel evaluates the states of each.
set_option Elab.async false

/-! ## Small states -/

/-- A referenced channel at rest, without a demand. -/
def restChannel : Channel :=
  { Channel.afterReset with
    state := .idle
    src := ⟨none, none, false, none, none⟩
    dem.win := none
    drv.referenced := true
    lim.window := some 600000
    wind.limit := 1000 }

/-- Fields with every sensor fitted and four channels of stroke 5000. -/
def testFields : Fields :=
  { Fields.builtIn 512 with
    ch := Four.all { fitted := true, facing := 0, stroke := some 5000, inrush := 40, run := 15, stall := 30 }
    anemoFitted := true, vaneFitted := true, rainFitted := true, heatFitted := true, demandFitted := true }

/-- The station of bay 3 in NORMAL mode, with an idle line, a calm dry sky, and four channels at rest. -/
def st : State :=
  { State.reset with
    cfg.fields := testFields
    cfg.outcome := .clean
    sup.mode := .normal
    sup.phase := .entry
    sup.bay := 3
    sup.presence := ⟨Four.all (some true), some true, some true, some true, some true⟩
    sup.faults := []
    line.receiver := .idle
    wx.atrium := ⟨5, none, 9, false, false, false, none⟩
    ch := Four.all restChannel }

/-- The same station with another CH1. -/
def stK (k : Channel) : State := st.setChan .one k

/-- A channel driven to neither end. -/
def driving (d : Dir) (count : Nat) : Channel :=
  { restChannel with state := .running, drv.dir := some d, drv.current := some 15, drv.count := count }

/-- A channel in a reference run. -/
def referencing : Channel :=
  { driving .closing 4900 with
    state := .referencing, dem.movement := some ⟨.reference, 0, some .localKey⟩, drv.stallTimer := some 0 }

/-- A channel that waits to close. -/
def toClose : Channel :=
  { restChannel with
    state := .waiting, src.weather := true, dem.win := some (.weather, .pos 0)
    dem.movement := some ⟨.ordinary, 0, some .weather⟩, drv.count := 5000 }

/-- A property of each of the four channels is one of every channel. -/
theorem all4 {p : Chan → Prop} (h : p .one ∧ p .two ∧ p .three ∧ p .four) (c : Chan) : p c := by
  obtain ⟨h1, h2, h3, h4⟩ := h
  cases c <;> assumption

/-- A start-list item for one channel. -/
def item (bay inrush : Nat) (fire : Bool) : StartItem := ⟨bay, ⟨true, false, false, false⟩, inrush, fire, 0⟩

/-- An item that has been in the list for some time. -/
def aged (i : StartItem) : StartItem := { i with age := 1 }

/-- The same station with a claim of CH1, which waits to close, and a start list. -/
def claiming (state : ClaimState) (fire : Bool) (items : List StartItem) : State :=
  { stK toClose with
    bud.own := ⟨state, ⟨true, false, false, false⟩, fire, 40⟩, bud.settleTimer := some 0, bud.items := items }

/-- The same station at the end of its listen period. -/
def atListen : State := { st with sup.mode := .starting, sup.phase := .listen, sup.listenTimer := some 0 }

/-- An image of zeros whose signature matches (test_signature_of_zeros). -/
def imageOk : List Word := List.replicate 63 0#16 ++ [0x7ED1#16]

/-- The store as written with an image, one bit of its last word wrong since. -/
def storeOf (image : List Word) : List StoreWord :=
  (image.map StoreWord.fresh).set 63 ⟨image.getD 63 0#16, 0x200000#22⟩

/-- The part right after reset with another store. -/
def withStore (store : List StoreWord) : State := { State.reset with cfg.store := store }

/-- The state after a command. -/
def after (c : Instr) (s : State) : State :=
  match exec c s with
  | .next t => t
  | _ => s

/-- The sources and the winner of every channel follow, as a test. -/
def followsTest (s : State) : Bool :=
  Quad.all.all (fun c =>
    decide ((s.chan c).src.override = effectiveOverride s.fire.overrides) && decide ((s.chan c).fire.action = s.fireAction c) &&
      decide ((s.chan c).src.fire = (s.chan c).fireDemand) && decide ((s.chan c).src.weather = s.wx.atrium.closes) &&
      decide ((s.chan c).src.localKey = s.localSource) && decide ((s.chan c).src.ventilate = s.ventilateSource c) &&
      decide ((s.chan c).lim.veto = s.limitVeto c) && decide ((s.chan c).dem.win = s.winner c))

theorem demandsFollow_of {s : State} (h : followsTest s = true) : s.DemandsFollow := by
  simp only [followsTest, Quad.all, List.all_cons, List.all_nil, Bool.and_true, Bool.and_eq_true, decide_eq_true_eq] at h
  intro c _
  obtain ⟨h1, h2, h3, h4⟩ := h
  cases c
  · exact ⟨⟨h1.1.1.1.1.1.1.1, h1.1.1.1.1.1.1.2, h1.1.1.1.1.1.2, h1.1.1.1.1.2, h1.1.1.1.2, h1.1.1.2⟩, h1.1.2, h1.2⟩
  · exact ⟨⟨h2.1.1.1.1.1.1.1, h2.1.1.1.1.1.1.2, h2.1.1.1.1.1.2, h2.1.1.1.1.2, h2.1.1.1.2, h2.1.1.2⟩, h2.1.2, h2.2⟩
  · exact ⟨⟨h3.1.1.1.1.1.1.1, h3.1.1.1.1.1.1.2, h3.1.1.1.1.1.2, h3.1.1.1.1.2, h3.1.1.1.2, h3.1.1.2⟩, h3.1.2, h3.2⟩
  · exact ⟨⟨h4.1.1.1.1.1.1.1, h4.1.1.1.1.1.1.2, h4.1.1.1.1.1.2, h4.1.1.1.1.2, h4.1.1.1.2, h4.1.1.2⟩, h4.1.2, h4.2⟩

theorem phaseRule_of {s : State} (h : s.starting = !decide (s.sup.phase = .entry)) : s.PhaseRule := by
  simp [State.PhaseRule, h]

/-- An isolated station keeps the rule of the starts where no claim is live and no CLAIM is queued. -/
theorem startRule_isolated {s : State} (h : s.sup.mode = .isolated ∧ s.line.isolation = true ∧ s.bud.own.state = .none ∧
    s.line.queue.all (fun e => decide (e.notice.kind ≠ .claim)) = true) : s.StartRule := by
  obtain ⟨hm, hi, hn, hq⟩ := h
  have hc : s.claimsAllowed = false := by simp [State.claimsAllowed, hm]
  simp only [List.all_eq_true, decide_eq_true_eq] at hq
  refine ⟨fun h => ?_, fun _ => hi, fun h => ?_, fun h => ?_, fun _ => ⟨hn, fun e he hk => absurd hk (hq e he)⟩, fun h => ?_⟩
  · rw [hm] at h; cases h
  · rw [hc] at h; cases h
  · rw [hc] at h; cases h
  · simp [State.starting, hm] at h

theorem startRule_of {s : State} (h : s.sup.mode = .normal ∧ s.line.isolation = false ∧ s.bud.isoTimer = none ∧
    s.bud.isoOpen = false ∧ Quad.all.all (fun c => !decide ((s.chan c).state = .waiting)) = true) : s.StartRule := by
  obtain ⟨hm, hi, ht, ho, hw⟩ := h
  simp only [Quad.all, List.all_cons, List.all_nil, Bool.and_true, Bool.and_eq_true, Bool.not_eq_true', decide_eq_false_iff_not]
    at hw
  refine ⟨fun _ => hi, fun h => ?_, fun _ => ⟨ht, ho⟩, fun _ _ h => ?_, fun h => ?_, fun h => ?_⟩
  · rw [hm] at h; cases h
  · obtain ⟨c, hc⟩ := h
    cases c
    · exact absurd hc hw.1
    · exact absurd hc hw.2.1
    · exact absurd hc hw.2.2.1
    · exact absurd hc hw.2.2.2
  · rw [hi] at h; cases h
  · simp [State.starting, hm] at h

theorem quiet_of {s : State} (h : s.line.drive = .released ∧ s.line.flight = none ∧ s.bud.own.state = .none ∧
    s.line.queue.all (fun e => decide (e.notice.kind ≠ .claim)) = true ∧
    (s.bud.isoTimer = none ∧ s.bud.isoOpen = false) ∧ s.ch = Four.all restChannel) : s.StartingQuiet := by
  obtain ⟨h1, h2, h3, hq, h4, h5⟩ := h
  simp only [List.all_eq_true, decide_eq_true_eq] at hq
  refine ⟨h1, h2, h3, hq, h4, fun c => ?_⟩
  simp only [State.chan, h5]
  cases c <;> rfl

/-! ## The forms of the package -/

theorem test_wf_accepts : (Instr.noticeReceived ((Notice.fireClear .one).frame 32)).wf = true := by decide +kernel
theorem test_wf_refuses_long_notice : (Instr.noticeReceived (List.replicate 30 0#8)).wf = false := by decide
theorem test_wf_refuses_report_of_bay_0 : (Instr.reportExpiry 0).wf = false := by decide
theorem test_wf_refuses_stale_bay_33 : (Instr.entryStale 33).wf = false := by decide
theorem test_wf_refuses_removal_of_bay_0 : (Instr.entryRemoval 0).wf = false := by decide
theorem test_wf_refuses_override_origin_33 : (Instr.overrideOriginExpiry 33).wf = false := by decide
theorem test_wf_refuses_ventilation_origin_0 : (Instr.ventilationOriginExpiry 0).wf = false := by decide
theorem test_wf_refuses_item_of_bay_33 : (Instr.itemAgeOut 33).wf = false := by decide
theorem test_wf_refuses_long_request : (Instr.badCommandRequest (List.replicate 259 0#8)).wf = false := by decide +kernel

/-- No row of the table gives bits (log entry 21). -/
theorem test_no_word_spells_a_command : decodeTableWord 8 0 = none ∧ State.reset.withFetchWord 8 0 = State.reset := ⟨rfl, rfl⟩

/-! ## The load and the reset -/

/-- Chunks of the check of zero bytes, for test_signature_of_zeros. -/
theorem check_zeros :
    (List.replicate 18 0#8).foldl checkByte 0xFFFF#16 = 0x45AB#16 ∧
      (List.replicate 18 0#8).foldl checkByte 0x45AB#16 = 0x8135#16 ∧
    (List.replicate 18 0#8).foldl checkByte 0x8135#16 = 0x6647#16 ∧
      (List.replicate 18 0#8).foldl checkByte 0x6647#16 = 0x040E#16 ∧
    (List.replicate 18 0#8).foldl checkByte 0x040E#16 = 0x15FB#16 ∧
      (List.replicate 18 0#8).foldl checkByte 0x15FB#16 = 0xEE50#16 ∧
    (List.replicate 18 0#8).foldl checkByte 0xEE50#16 = 0x7ED1#16 := by decide +kernel

/-- The signature of 63 words of zero is the check of 126 zero bytes, by hand from R21 (R170). -/
theorem test_signature_of_zeros (w : Word) : signature (List.replicate 63 0#16 ++ [w]) = 0x7ED1#16 := by
  have h : ((List.replicate 63 0#16 ++ [w]).take 63).flatMap (fun w => [Word.hi w, Word.lo w]) =
      (List.replicate 7 (List.replicate 18 0#8)).flatten := by
    rw [List.take_left' (by simp)]
    decide +kernel
  obtain ⟨h1, h2, h3, h4, h5, h6, h7⟩ := check_zeros
  rw [signature, h, check]
  simp only [List.replicate_succ (n := 6), List.replicate_succ (n := 5), List.replicate_succ (n := 4),
    List.replicate_succ (n := 3), List.replicate_succ (n := 2), List.replicate_succ (n := 1),
    List.replicate_succ (n := 0) (a := List.replicate 18 0#8), List.replicate_zero (a := List.replicate 18 0#8),
    List.flatten_cons, List.flatten_nil, List.append_nil, List.foldl_append]
  rw [h1, h2, h3, h4, h5, h6, h7]

/-- A full reset with the blank store, straps of bay 1, SVC clear and the line recessive gives State.reset (log entry 7). -/
theorem test_reset_is_full_reset_of_blank : exec (.fullReset 0#5 false false) State.reset = .next State.reset := by
  have hi : (blankStore.map StoreWord.decode).map Prod.fst = List.replicate 63 0#16 ++ [0#16] := by decide +kernel
  have hl : (load blankStore blankFactory) =
      { image := List.replicate 64 0#16, outcome := .lost, lastCorrected := 0, fields := Fields.builtIn 512,
        corrected := false, lost := true, clamped := false } := by
    have hs : (signature ((blankStore.map StoreWord.decode).map Prod.fst) !=
        imageWord ((blankStore.map StoreWord.decode).map Prod.fst) 63) = true := by
      rw [hi, test_signature_of_zeros]
      decide +kernel
    simp only [load, hs, Bool.or_true, if_true]
    decide +kernel
  have hc : State.reset.cfg.loaded = State.reset.cfg := by
    show ConfigStore.blank.loaded = ConfigStore.blank
    simp only [ConfigStore.loaded, ConfigStore.blank, hl]
  have hv : State.reset.cfg.supervision 0#5 false = State.reset.sup := by
    show ConfigStore.blank.supervision 0#5 false = _
    simp only [ConfigStore.supervision, ConfigStore.blank, hl]
    rfl
  show Host.Outcome.next (State.reset.fullReset 0#5 false false) = _
  simp only [State.fullReset]
  show Host.Outcome.next { State.reset with
    cfg := State.reset.cfg.loaded, sup := State.reset.cfg.supervision 0#5 false } = _
  rw [hc, hv]

/-! ## Notices (sections 2.1 to 2.5) -/

/-- R21: over the nine bytes 0x31 to 0x39 the computation gives 0x29B1. -/
theorem test_check_of_digits :
    check [0x31#8, 0x32#8, 0x33#8, 0x34#8, 0x35#8, 0x36#8, 0x37#8, 0x38#8, 0x39#8] = 0x29B1#16 := by decide +kernel

/-- Section 1.4: a FIRE notice has 7 characters, a CLAIM 9. -/
theorem test_frame_lengths :
    ((Notice.fire .two true false).frame 7).length = 7 ∧ ((Notice.claim (Four.all true) 160 true).frame 9).length = 9 := by
  decide +kernel

/-- Section 1.4: with an idle line bay 9's CLAIM waits 29 bit times, and a FIRE 12. -/
theorem test_waits :
    let s : State := { st with sup.bay := 9, line.queue := [⟨.claim (Four.all true) 160 false, 0, false⟩] }
    let f : State := { st with line.queue := [⟨.fire .two true false, 0, false⟩] }
    (after (.attemptBegin 28) s).line.flight = none ∧ (after (.attemptBegin 29) s).line.flight.isSome = true ∧
      (after (.attemptBegin 11) f).line.flight = none ∧ (after (.attemptBegin 12) f).line.flight.isSome = true :=
        by decide +kernel

/-- R32: a demand that goes 400, 405, 409, 410 queues at 400 and then at 410 (raw values 410, 415, 419, 420). -/
theorem test_demand_queued :
    let s : State := { st with sched.lastVentilate := some 400, sched.ventilatePeriod := some 5 }
    (after (.vdemSample 415) s).dem.sample = 405 ∧ (after (.vdemSample 415) s).line.queue = [] ∧
      (after (.vdemSample 419) s).dem.sample = 409 ∧ (after (.vdemSample 419) s).line.queue = [] ∧
      (after (.vdemSample 420) s).dem.sample = 410 ∧
        (after (.vdemSample 420) s).line.queue.any (fun e => e.notice == .ventilate ⟨true, false, false, false⟩ 410) = true :=
          by decide +kernel

/-! ## The Peer View (the worked example of chapter 3) -/

/-- Bays 3 and 9 fresh, bay 14 stale: 75; the WEATHER of bay 14 makes its 60 count: 135. -/
theorem test_reckoned_current :
    let report (n : Nat) : StatusContent := ⟨.normal, .one, Four.all false, false, n, []⟩
    let s : State := { st with sup.bay := 6, peer.entries :=
      [⟨3, 11000, true, some (report 30), none, none⟩, ⟨9, 3600, true, some (report 45), none, none⟩,
        ⟨14, 16000, false, some (report 60), none, none⟩] }
    s.reckoned = 75 ∧ (after (.noticeReceived ((Notice.weather Report.empty).frame 14)) s).reckoned = 135 := by decide +kernel

/-! ## Weather (chapter 4) -/

/-- R50, R51, R52: 35 pulses with K = 250 give 87; a raw value of 711 gives 249, and 9 with a north offset of 120. -/
theorem test_gate :
    (after (.gateEnd 35 711) { st with wx.gateTimer := some 0 }).wx.own.mean = some 87 ∧
      (after (.gateEnd 35 711) { st with wx.gateTimer := some 0 }).wx.own.direction = some 249 ∧
      (after (.gateEnd 35 711) { st with wx.gateTimer := some 0, cfg.fields.northOffset := 120 }).wx.own.direction = some 9 := by
  decide +kernel

/-- R51: a ring of 80, 91, 87 and 95 gives a mean of 88 and a gust of 95. -/
theorem test_gate_ring :
    let s : State := { st with wx.gateTimer := some 0, wx.ring := [80, 91, 87], cfg.fields.k := 100 }
    (after (.gateEnd 95 711) s).wx.own.mean = some 88 ∧ (after (.gateEnd 95 711) s).wx.own.gust = some 95 := by decide +kernel

/-- R56: the table of temperatures for CAL = 460 and S_heat = 52, and the clamp with S_heat = 10. -/
theorem test_temperatures :
    temperature 460 52 400 = 135 ∧ temperature 460 52 683 = 678 ∧ temperature 460 52 684 = 680 ∧
      temperature 460 52 1019 = 1325 ∧ temperature 460 10 1019 = 1500 := by decide +kernel

/-- R57: 684 after 684 and 690 sets the alarm; 683 after 684 does not count. -/
theorem test_fixed_run :
    let s : State := { st with wx.heatTimer := some 0, cfg.fields.cal := 460, wx.heatRing := [680, 692], wx.fixedRun := 2 }
    (after (.heatSample 684) s).wx.heatAlarm = true ∧ (after (.heatSample 684) s).fire.heat = true ∧
      (after (.heatSample 683) s).wx.heatAlarm = false ∧ (after (.heatSample 683) s).wx.fixedRun = 0 := by decide +kernel

/-- R65: the examples of the fold. -/
theorem test_folds :
    windAngle 250 225 = 25 ∧ windAngle 250 315 = 65 ∧ windAngle 250 45 = 155 ∧ windAngle 0 359 = 1 ∧ windAngle 359 0 = 1 ∧
      windAngle 10 190 = 180 := by decide +kernel

/-- R66: the values near the edge of the windward half at W = 600. -/
theorem test_windward_edge :
    windward 600 85 0 = 51 ∧ windward 600 87 0 = 51 ∧ windward 600 88 0 = 0 ∧ windward 600 90 0 = 0 ∧ windward 600 91 0 = 0 := by
  decide +kernel

/-- R67: with the defaults Weff = 61 gives 983, and 119 gives 16. -/
theorem test_limits : ventLimit (Fields.builtIn 512) 61 0 = 983 ∧ ventLimit (Fields.builtIn 512) 119 0 = 16 := by decide +kernel

/-! ## Fire (sections 5.1 and 5.8) -/

/-- Section 5.8, step 1: FIRE for zone 1 at bay 12, whose response table CH1 leaves out, CH2 closes and CH3 freezes at 420. -/
theorem test_fire_step_1 :
    let s : State := { st with
      cfg.fields.response.one := ⟨.none, .close, .freeze, .none⟩
      ch.three := { restChannel with drv.count := 2100 } }
    let t := after (.noticeReceived ((Notice.fire .one true false).frame 2)) s
    (t.chan .one).src.fire = none ∧ (t.chan .two).src.fire = some (.pos 0) ∧ (t.chan .three).src.fire = some (.pos 420) := by
  decide +kernel

/-- Section 5.1: with CONTACT standing a loop that settles at OPEN sets LOOP_OPEN and keeps CONTACT. -/
theorem test_loop_cut :
    let s : State := { st with
      fire.loopClass := some .alarm, fire.contact := true, fire.candidate := some .open, fire.candidateTimer := some 0 }
    (after .loopSettle s).sup.faults = [5] ∧ (after .loopSettle s).fire.contact = true := by decide +kernel

/-! ## Demands, claims and drive (chapters 6 to 9) -/

/-- R97: origins of 400, 650 and 300 give 650, and a channel with L = 616 a target of 616; without bay 9's, 400. -/
theorem test_ventilation :
    let s : State := { st with
      dem.ventMap := [⟨2, 400, 5⟩, ⟨9, 650, 180000⟩, ⟨3, 300, 0⟩]
      ch.one := { restChannel with wind.limit := 700 }, ch.two := { restChannel with wind.limit := 616 } }
    s.ventilateSource .one = some 650 ∧ s.ventilateSource .two = some 616 ∧
      ((after (.ventilationOriginExpiry 9) s).chan .two).src.ventilate = some 400 := by decide +kernel

/-- R115: inrush ratings of 40, 60, 30 and 40 with A_start 80: CH1 and CH3, a sum of 70. With FIRE winning on CH4 the fire claim takes CH4,
CH1 and CH2, a sum of 140. -/
theorem test_claim :
    let f (n : Nat) : ChannelFields := { fitted := true, facing := 0, stroke := some 5000, inrush := n, run := 15, stall := 30 }
    let k : Channel := { restChannel with
      state := .waiting, dem.win := some (.ventilate, .pos 500), dem.movement := some ⟨.ordinary, 500, some .ventilate⟩ }
    let s : State := { st with cfg.fields.ch := ⟨f 40, f 60, f 30, f 40⟩, ch := Four.all k }
    let t : State := { s with ch.four := { k with dem.win := some (.fire, .pos 1000) } }
    s.selectClaim.channels = ⟨true, false, true, false⟩ ∧ s.selectClaim.inrush = 70 ∧
      t.selectClaim.channels = ⟨true, true, false, true⟩ ∧ t.selectClaim.inrush = 140 := by decide +kernel

/-- R112: the fire-flagged CLAIM of a bay whose item ages out in the same instant grants the deferred claim in either order. -/
theorem test_either_order_grants :
    let claim : Instr := .noticeReceived ((Notice.claim ⟨true, false, false, false⟩ 41 true).frame 5)
    let s : State := claiming .deferred false [aged (item 5 41 false), item 3 40 false]
    let t := after claim (after (.itemAgeOut 5) s)
    let u := after (.itemAgeOut 5) (after claim s)
    (t.chan .one).state = .running ∧ t.chan .one = u.chan .one ∧ t.bud = u.bud := by decide +kernel

/-- Section 8.3: a stroke of 2350 and a target of 425 give the stop points 998 and 999; driven opening the channel stops at 999, at
position 425. -/
theorem test_stop_points :
    let k : Channel := { driving .opening 998 with
      src.localKey := some 425, dem.win := some (.localKey, .pos 425), dem.movement := some ⟨.ordinary, 425, some .localKey⟩ }
    let s : State := { stK k with cfg.fields.ch.one.stroke := some 2350 }
    lowerStop 2350 425 = 998 ∧ upperStop 2350 425 = 999 ∧ ((after (.hallPulse .one) s).chan .one).state = .idle ∧
      ((after (.hallPulse .one) s).chan .one).drv.count = 999 ∧ (after (.hallPulse .one) s).position .one = 425 :=
        by decide +kernel

/-- R101, R105: a reference run aborted with the count still at S rests for 1000, which is then within 20 and not ahead. -/
theorem test_abort_at_stroke_rests :
    let s : State := stK { referencing with drv.count := 5000, src.fire := some (.pos 1000) }
    s.stroke .one = 5000 ∧ ((s.recompute .one).chan .one).state = .idle ∧ ((s.recompute .one).chan .one).dem.movement = none := by
  decide +kernel

/-- R105, R146: a reference run formed for a jog goes on as STOP ends the jog, with none pending, and the jog's own movement stops. -/
theorem test_reference_run_outlives_jog :
    let jogged (k : Channel) (kind : MoveKind) (n : Nat) : State := { stK { k with
        drv.jog := some ⟨.opening, 100, some 50⟩, dem.win := some (.jog, .pos 1000), dem.pending := some (.pos 1000)
        dem.movement := some ⟨kind, n, some .jog⟩ } with sup.mode := .service }
    let k := (after (.stop 1#8) (jogged referencing .reference 0)).chan .one
    let m := (after (.stop 1#8) (jogged (driving .opening 500) .ordinary 1000)).chan .one
    k.state = .referencing ∧ k.dem.pending = none ∧ k.dem.movement.isSome = true ∧ k.drv.jog = none ∧
      m.state = .idle ∧ m.dem.movement = none ∧ m.drv.jog = none := by decide +kernel

/-- Section 8.3: on that stroke the zone of the open end begins at 2233. -/
theorem test_stall_zone :
    let k (n : Nat) : Channel := { driving .opening n with
      drv.stallTimer := some 0, src.localKey := some 1000, dem.win := some (.localKey, .pos 1000)
      dem.movement := some ⟨.ordinary, 1000, some .localKey⟩ }
    let s (n : Nat) : State := { stK (k n) with cfg.fields.ch.one.stroke := some 2350 }
    ((after (.stall .one) (s 2233)).chan .one).drv.count = 2350 ∧ (after (.stall .one) (s 2233)).sup.faults = [] ∧
      ((after (.stall .one) (s 2232)).chan .one).state = .faulted ∧ (after (.stall .one) (s 2232)).sup.faults = [16] := by
  decide +kernel

/-- R150: the table of thresholds. -/
theorem test_thresholds :
    ({ testFields with dutyWindow := 600, duty := 30 } : Fields).threshold = 1800 ∧
      ({ testFields with dutyWindow := 60, duty := 5 } : Fields).threshold = 30 ∧
      ({ testFields with dutyWindow := 61, duty := 7 } : Fields).threshold = 42 ∧
      ({ testFields with dutyWindow := 3600, duty := 100 } : Fields).threshold = 36000 := by decide +kernel

/-! ## Supply (section 10.4) -/

/-- The supply dip: 19.2 V runs the entry timer, 20.4 V puts it to 0; set,
  20.8 V puts the recovery timer to 0 and 21.6 V runs it. -/
theorem test_supply_dip :
    (after (.vmotReading 192) st).sup.lowEntry = some 100 ∧
      (after (.vmotReading 204) { st with sup.lowEntry := some 40 }).sup.lowEntry = none ∧
      (after (.vmotReading 208) { st with sup.low := true, sup.lowRecovery := some 500 }).sup.lowRecovery = none ∧
      (after (.vmotReading 216) { st with sup.low := true }).sup.lowRecovery = some 1000 := by decide +kernel

/-! ## The queue -/

/-- The front of the queue is taken first. -/
theorem test_first_in_first_out :
    step { st with pending := [.startBitSample true, .gap] } =
      .next { st with pending := [.gap], line.receiver := .receiving [] true } := rfl

theorem written_storeOf : (storeOf imageOk).map (·.written) = imageOk := by decide +kernel

/-- The example of section 1.4: FIRE is 70 bit times long and CLAIM 90, and the FIRE of bay 7 loses to that of bay 12 at bit 0 of the
bay, 11 bit times from its beginning. -/
theorem test_levels_of_section_1_4 :
    (lineChars ((Notice.fire .two true false).frame 7)).length = 70 ∧
    (lineChars ((Notice.claim (Four.all true) 40 false).frame 9)).length = 90 ∧
    (lineChars ((Notice.fire .two true false).frame 7)).take 11 = (lineChars ((Notice.fire .two true false).frame 12)).take 11 ∧
    (lineChars ((Notice.fire .two true false).frame 7))[11]? = some false ∧
    (lineChars ((Notice.fire .two true false).frame 12))[11]? = some true ∧
    ((sentLevels (lineChars ((Notice.fire .two true false).frame 7)) (lineChars ((Notice.fire .two true false).frame 12))).drop 11).all
      not = true := by decide +kernel

/-- A break armed inside a character waits for its end (R13). -/
def armed (inChar : Bool) : State :=
  { st with
    line.receiver := .receiving [0x53#8, 0x01#8, 0x10#8] inChar, line.breakArmed := true
    line.queue := [⟨.fireClear .one, 0, false⟩] }

theorem test_break_waits_for_character_end :
    after .preemptiveBreak (armed true) = armed true ∧
    (after .preemptiveBreak (after (.characterEnd 5#8 true) (armed true))).line.drive = .breakPulse := by decide +kernel

/-- The span of a pulse grows from the edge it makes on the line (R6, R14). -/
theorem test_span_of_pulse_grows :
    (after .dominantEdge (after .pulseBegin { st with line.pulseRequested := true })).tick.line.span = some 96 := by
  decide +kernel

/-- A pulse that does not reach the line starts the general timer at its beginning, and its end, where the span timer has seen no span,
does not restart it (R78). -/
theorem test_unseen_pulse_starts_timer_at_beginning_only :
    (after .pulseBegin { st with line.pulseRequested := true, line.span := some 15 }).fire.generalTimer = some 30000 ∧
    (after (.pulseEnd (some 0)) (after .pulseBegin
      { st with line.pulseRequested := true, line.span := some 15 }).tick).fire.generalTimer = some 29999 := by decide +kernel

/-- While a pulse is driven that does not reach the line, the line is recessive and the idle count goes on; with the edge that it makes on
the line the count stands still from 0 (R4, R9, R78). -/
theorem test_idle_count_runs_under_unseen_pulse :
    (after .pulseBegin { st with line.pulseRequested := true, line.recessive := 40 }).tick.line.recessive = 136 ∧
    (after .dominantEdge (after .pulseBegin
      { st with line.pulseRequested := true, line.recessive := 40 })).tick.line.recessive = 0 := by decide +kernel

/-- A station whose CLAIM waits in its queue while no claim is live, as after a failed attempt of a CLAIM whose channels had left WAITING in
flight (R12, R123). -/
def staleClaim : State :=
  { st with line.queue := [⟨.claim ⟨true, false, false, false⟩ 40 false, 1, false⟩, ⟨.weather Report.empty, 0, false⟩] }

/-- A CLAIM that waits is withdrawn as the supply veto begins and as the station becomes isolated, without a drop (R24, R125 to R127). -/
theorem test_waiting_claim_is_withdrawn :
    ∀ t ∈ [after .supplyHighSet { staleClaim with sup.highEntry := some 0 }, after .lineStuck staleClaim],
      (∀ e ∈ t.line.queue, e.notice.kind ≠ .claim) ∧ t.line.dropped = 0 := by decide +kernel

/-- A CLAIM whose attempt fails goes back into the queue, but where the isolation condition stands it leaves it (R12, R127). -/
theorem test_failed_claim_of_isolated_station :
    ∀ isolated : Bool,
      ((after .lostContention { staleClaim with
        line.isolation := isolated
        line.flight := some ⟨.claim ⟨true, false, false, false⟩ 40 false, [], false⟩ }).line.queue.map (·.notice.kind)).contains
          .claim = !isolated := by decide +kernel

/-- A pulse of 600 ms on the line is a hold-down at its release, and restarts the general timer (R7, R14, R78). -/
theorem test_pulse_on_line_restarts_timer_at_release :
    (after (.pulseEnd (some 11520)) (after .span11BitTimes (after .dominantEdge (after .pulseBegin
      { st with line.pulseRequested := true })).tick)).fire.generalTimer = some 30000 := by decide +kernel

/-! ## Witnesses of the obligations' hypotheses -/

/-- The same station with a command that waits. -/
def busy : State := { st with pending := [.healthPeriod] }

theorem inv_busy : busy.Inv := by
  constructor <;> decide +kernel

theorem noticesWf_busy : busy.NoticesWf := by
  constructor
  · exact inv_busy
  all_goals decide +kernel

/-- Witness of Obligations.IdleMillisecond. -/
theorem witness_IdleMillisecond :
    ∃ (down : Timer → Timer) (s : State), (∀ n, down (some n) = some (n - 1)) ∧ down none = none ∧ s.pending = [] :=
  ⟨fun t => t.map (fun n => n - 1), st, fun _ => rfl, rfl, rfl⟩

/-- Witness of Obligations.InvKept. -/
theorem witness_InvKept : ∃ s t : State, s.Inv ∧ step s = .next t :=
  ⟨busy, _, noticesWf_busy.inv, rfl⟩

/-- Witness of Obligations.ChannelsKept. -/
theorem witness_ChannelsKept : ∃ s t : State, s.channelsWf = true ∧ step s = .next t :=
  ⟨busy, _, noticesWf_busy.channels, rfl⟩

/-- Witness of Obligations.DemandsKept. -/
theorem witness_DemandsKept : ∃ s t : State, s.PhaseRule ∧ s.DemandsFollow ∧ step s = .next t :=
  ⟨{ st with pending := [.rainScan 0] }, _, phaseRule_of (by decide), demandsFollow_of (by decide +kernel), rfl⟩

/-- Witness of Obligations.DemandsKept at the end of the listen period, with the local key taken OPEN. -/
theorem witness_DemandsKept_listen :
    ∃ s t : State, s.PhaseRule ∧ s.DemandsFollow ∧ s.sup.phase = .listen ∧ s.dem.keyTaken = .open ∧ step s = .next t :=
  ⟨{ atListen with
      pending := [.listenEnd], dem.keyTaken := .open
      ch := Four.all { restChannel with src.localKey := some 1000, dem.win := some (.localKey, .pos 1000) } }, _,
    phaseRule_of (by decide), demandsFollow_of (by decide +kernel), rfl, rfl, rfl⟩

/-- Witness of Obligations.StartRuleKept. -/
theorem witness_StartRuleKept : ∃ s t : State, s.StartRule ∧ step s = .next t :=
  ⟨{ st with pending := [.settleExpiry] }, _, startRule_of (by decide), rfl⟩

/-- Witness of Obligations.DutyKept. -/
theorem witness_DutyKept : ∃ s t : State, s.fields.inRange = true ∧ s.dutyWf = true ∧ step s = .next t :=
  ⟨{ st with pending := [.runTick .one] }, _, by decide +kernel, by decide +kernel, rfl⟩

/-- Witness of Obligations.OwnNoticesPass. -/
theorem witness_OwnNoticesPass : ∃ s t : State, s.NoticesWf ∧ step s = .next t :=
  ⟨busy, _, noticesWf_busy, rfl⟩

/-- Witness of Obligations.ModeChanges, for each way in which the mode changes. -/
theorem witness_ModeChanges :
    (∃ s t : State, exec .lineStuck s = .next t ∧ s.sup.mode = .normal ∧ t.sup.mode = .isolated) ∧
    (∃ s t : State, exec .cleanEcho s = .next t ∧ s.sup.mode = .isolated ∧ t.sup.mode = .normal) ∧
    (∃ s t : State, exec (.fullReset 0#5 false false) s = .next t ∧ s.sup.mode = .normal ∧ t.sup.mode = .starting) ∧
    (∃ s t : State, exec .listenEnd s = .next t ∧ s.sup.mode = .starting ∧ t.sup.mode = .normal) :=
  ⟨⟨{ st with line.span := some 55, line.spanLong := true }, _, rfl, by decide +kernel⟩,
    ⟨{ st with
        sup.mode := .isolated, line.isolation := true, line.flight := some ⟨.weather Report.empty, [], false⟩ }, _, rfl,
      by decide +kernel⟩,
    ⟨st, _, rfl, rfl, rfl⟩,
    ⟨atListen, _, rfl, by decide +kernel⟩⟩

/-- Witness of Obligations.FixedBetweenResets. -/
theorem witness_FixedBetweenResets :
    ∃ (c : Instr) (s t : State), exec c s = .next t ∧ (∀ straps svc dominant, c ≠ .fullReset straps svc dominant) ∧
      c ≠ .programWordWritten ∧ c ≠ .supplyLowSet ∧ s.chan .one = Channel.absent ∧ s.svc.programming = none :=
  ⟨.hallPulse .one, { st with ch.one := Channel.absent }, _, rfl, by intros; exact Instr.noConfusion, by decide, by decide, rfl, rfl⟩

/-- Witness of the three cases of Obligations.BuiltInDefaults. -/
theorem witness_BuiltInDefaults_cases :
    (∃ s : State, storeWf s.cfg.store = true ∧ (∃ i, i < 64 ∧ wrongBits (readStore s.cfg.store i).wrong = 2) ∧
      wrongBits s.cfg.factory.wrong = 2) ∧
    (∃ s : State, storeWf s.cfg.store = true ∧ ∃ i, i < 64 ∧ s.svc.programming = some i) ∧
    (∃ s : State, storeWf s.cfg.store = true ∧ s.svc.programming = none ∧
      (∀ i, i < 64 → wrongBits (readStore s.cfg.store i).wrong ≤ 1) ∧
      signature (s.cfg.store.map (·.written)) ≠ (readStore s.cfg.store 63).written) :=
  ⟨⟨{ withStore ((storeOf imageOk).set 0 ⟨0#16, 3#22⟩) with cfg.factory := ⟨512#16, 3#22⟩ }, by decide +kernel, ⟨0, by decide +kernel⟩,
      by decide +kernel⟩,
    ⟨{ st with svc.programming := some 63 }, by decide +kernel, ⟨63, by decide +kernel⟩⟩,
    ⟨State.reset, by decide +kernel, rfl, by decide +kernel, by
      show signature (List.map _ blankStore) ≠ _
      rw [show blankStore.map (·.written) = List.replicate 63 0#16 ++ [0#16] by decide +kernel, test_signature_of_zeros]
      decide +kernel⟩⟩

/-- Witness of the cases of Obligations.Presence in which a channel is ABSENT already, or is as after the reset. -/
theorem witness_Presence_cases :
    (∃ (s : State) (c : Chan), s.sup.phase = .presence ∧ s.sup.mode = .starting ∧ s.bud.own.state = .none ∧
      s.bud.isoOpen = false ∧ (s.chan c).state = .absent) ∧
    (∃ (s : State) (c : Chan), s.sup.phase = .presence ∧ s.sup.mode = .starting ∧ s.bud.own.state = .none ∧
      s.bud.isoOpen = false ∧ s.chan c = Channel.afterReset ∧ s.supplyVeto = false ∧ s.lim.hold = false) :=
  ⟨⟨{ State.reset with ch.two := Channel.absent }, .two, by decide +kernel⟩, ⟨State.reset, .two, by decide +kernel⟩⟩

/-- Witness of the cases of Obligations.ListenEnd: SERVICE; isolated with a local fire, outside LINE_STUCK; a claim to form; and a
sensor station with its demand input fitted. -/
theorem witness_ListenEnd_cases :
    (∃ (s : State),
      s.StartingQuiet ∧ s.sup.phase = .listen ∧ s.sup.listenTimer.isSome = true ∧ s.starting = true ∧ s.sup.svcStrap = true) ∧
    (∃ (s : State),
      s.StartingQuiet ∧ s.sup.phase = .listen ∧ s.sup.listenTimer.isSome = true ∧ s.starting = true ∧ s.line.isolation = true ∧
      s.localFire = true ∧ s.fire.pulseTimer = none ∧ 1 ∉ s.sup.faults) ∧
    (∃ (s : State),
      s.StartingQuiet ∧ s.sup.phase = .listen ∧ s.sup.listenTimer.isSome = true ∧ s.starting = true ∧ s.line.isolation = false ∧
      s.supplyVeto = false ∧ ((after .listenEnd s).chan .one).state = .waiting) ∧
    (∃ (s : State),
      s.StartingQuiet ∧ s.sup.phase = .listen ∧ s.sup.listenTimer.isSome = true ∧ s.starting = true ∧ s.sensorStation = true ∧
      s.fields.demandFitted = true) :=
  ⟨⟨{ atListen with sup.svcStrap := true }, quiet_of (by decide +kernel), by decide +kernel⟩,
    ⟨{ atListen with line.isolation := true, fire.contact := true }, quiet_of (by decide +kernel), by decide +kernel⟩,
    ⟨{ atListen with ch.one := toClose }, ⟨rfl, rfl, rfl, by decide +kernel, ⟨rfl, rfl⟩, all4 (by decide +kernel)⟩, by decide +kernel⟩,
    ⟨atListen, quiet_of (by decide +kernel), by decide +kernel⟩⟩

/-- Witness of the two cases of Obligations.QueueNotice. -/
theorem witness_QueueNotice :
    (∃ (n : Notice) (s : State), ∃ e ∈ s.line.queue, e.notice.key = n.key) ∧
    (∃ (n : Notice) (s : State), (∀ e ∈ s.line.queue, e.notice.key ≠ n.key) ∧ classOrder s.line.queue = true ∧
      s.line.queue.length = 2) :=
  ⟨⟨.weather Report.empty, { st with line.queue := [⟨.weather Report.empty, 3, false⟩] }, by decide +kernel⟩,
    ⟨.claim (Four.all true) 160 false,
      { st with line.queue := [⟨.fireClear .one, 0, true⟩, ⟨.weather Report.empty, 3, false⟩] }, by decide +kernel⟩⟩

/-- Witness of Obligations.StepRunsFront. -/
theorem witness_StepRunsFront :
    ∃ (c : Instr) (rest : List Instr) (s : State),
      s.pending = c :: rest :=
  ⟨.gap, [.lineStuck], { st with pending := [.gap, .lineStuck] }, by decide +kernel⟩

/-- Witness of Obligations.NoticeRoundTrip. -/
theorem witness_NoticeRoundTrip :
    ∃ (bay : Nat) (n : Notice),
      1 ≤ bay ∧ bay ≤ 32 ∧ n.wf = true :=
  ⟨32, .claim (Four.all true) 65535 true, by decide +kernel⟩

/-- Witness of Obligations.LoadCorrects: a right factory row, and one with two wrong bits. -/
theorem witness_LoadCorrects :
    (∃ s : State, storeWf s.cfg.store = true ∧ s.svc.programming = none ∧
      (∀ i, i < 64 → wrongBits (readStore s.cfg.store i).wrong ≤ 1) ∧ wrongBits s.cfg.factory.wrong = 0 ∧
      signature (s.cfg.store.map (·.written)) = (readStore s.cfg.store 63).written) ∧
    (∃ s : State, storeWf s.cfg.store = true ∧ s.svc.programming = none ∧
      (∀ i, i < 64 → wrongBits (readStore s.cfg.store i).wrong ≤ 1) ∧ wrongBits s.cfg.factory.wrong = 2 ∧
      signature (s.cfg.store.map (·.written)) = (readStore s.cfg.store 63).written) :=
  ⟨⟨withStore (storeOf imageOk), by decide +kernel, by decide +kernel, by decide +kernel, by decide +kernel,
      by show signature (List.map _ (storeOf imageOk)) = _; rw [written_storeOf]; exact test_signature_of_zeros _⟩,
    ⟨{ withStore (storeOf imageOk) with cfg.factory := ⟨700#16, 3#22⟩ },
      by decide +kernel, by decide +kernel, by decide +kernel, by decide +kernel,
      by show signature (List.map _ (storeOf imageOk)) = _; rw [written_storeOf]; exact test_signature_of_zeros _⟩⟩

/-- Witness of Obligations.BuiltInDefaults. -/
theorem witness_BuiltInDefaults :
    ∃ (_straps : BitVec 5) (_svc _dominant : Bool) (s : State),
      storeWf s.cfg.store = true ∧
      ((∃ i, i < 64 ∧ wrongBits (readStore s.cfg.store i).wrong = 2) ∨ (∃ i, i < 64 ∧ s.svc.programming = some i) ∨
        (s.svc.programming = none ∧ (∀ i, i < 64 → wrongBits (readStore s.cfg.store i).wrong ≤ 1) ∧
          signature (s.cfg.store.map (·.written)) ≠ (readStore s.cfg.store 63).written)) :=
  ⟨0#5, false, true, withStore ((storeOf imageOk).set 63 ⟨0#16, 3#22⟩),
      by decide +kernel, .inl ⟨63, by decide +kernel⟩⟩

/-- Witness of Obligations.Presence, clause by clause. -/
theorem witness_Presence :
    (∃ (c : Chan) (_load : Bool) (s : State),
      s.sup.phase = .presence ∧ s.sup.presence.ch.get c = none) ∧
    (∃ (_bias : Bool) (_vane _rain _heat : Raw) (_flag : Bool) (s : State),
      s.sup.phase = .presence ∧ s.sup.mode = .starting ∧ s.bud.own.state = .none ∧ s.bud.isoOpen = false) :=
  ⟨⟨.four, false, State.reset, by decide +kernel⟩,
    ⟨true, 3, 1019, 4, true, State.reset, by decide +kernel⟩⟩

/-- Witness of Obligations.ListenEnd. -/
theorem witness_ListenEnd :
    ∃ (s : State),
      s.StartingQuiet ∧ s.sup.phase = .listen ∧ s.sup.listenTimer.isSome = true ∧ s.starting = true :=
  ⟨atListen, quiet_of (by decide +kernel), by decide +kernel⟩

/-- Witness of Obligations.CharactersTaken, clause by clause. -/
theorem witness_CharactersTaken :
    (∃ (s : State),
      s.line.receiver = .idle) ∧
    (∃ (chars : List Byte) (b : Bool) (s : State),
      s.line.receiver = .receiving chars b) ∧
    (∃ (s : State),
      s.line.receiver ≠ .recovering) ∧
    (∃ (_dominant : Bool) (s : State),
      s.line.receiver = .recovering) ∧
    (∃ (s : State),
      s.longSpan = false) ∧
    (∃ (s : State),
      s.line.receiver = .recovering ∧ s.longSpan = false) ∧
    (∃ (chars : List Byte) (s : State),
      s.line.receiver = .receiving chars false ∧ s.line.flight = none) ∧
    (∃ (char : Byte) (stop b : Bool) (chars : List Byte) (s : State),
      s.line.receiver = .receiving chars b ∧ s.line.flight = none ∧
      (stop = false ∨ (chars = [] ∧ char.toNat ∉ [32, 36, 40, 66, 83, 87, 91, 95]) ∨ (chars.length = 1 ∧ (char.toNat = 0 ∨ 32 <
        char.toNat)) ∨ (chars.length = 2 ∧ ((chars.head?.bind kindOfHead).map (fun k => k.lengthAllowed char.toNat)) ≠ some
        true))) ∧
    (∃ (char : Byte) (stop b : Bool) (chars : List Byte) (f : Flight) (s : State),
      s.line.receiver = .receiving chars b ∧ s.line.flight = some f ∧ (stop = false ∨ noticeComplete (chars ++ [char]) = false)) ∧
    (∃ (char : Byte) (b : Bool) (chars : List Byte) (s : State),
      s.line.receiver = .receiving chars b ∧ s.line.flight = none ∧
      (chars = [] → char.toNat ∈ [32, 36, 40, 66, 83, 87, 91, 95]) ∧ (chars.length = 1 → 1 ≤ char.toNat ∧ char.toNat ≤ 32) ∧
      (chars.length = 2 → ((chars.head?.bind kindOfHead).map (fun k => k.lengthAllowed char.toNat)) = some true) ∧
      ((chars ++ [char])[2]?.map (fun n => n.toNat + 5)) ≠ some (chars.length + 1)) :=
  ⟨⟨st, by decide +kernel⟩,
    ⟨[83#8, 5#8], false, { st with line.receiver := .receiving [83#8, 5#8] false }, by decide +kernel⟩,
    ⟨{ st with line.span := some 0, line.receiver := .receiving [83#8, 5#8] false }, by decide +kernel⟩,
    ⟨true, { st with line.receiver := .recovering, line.span := some 60, line.spanLong := true }, by decide +kernel⟩,
    ⟨{ st with line.span := some 54 }, by decide +kernel⟩,
    ⟨{ st with line.receiver := .recovering, line.span := some 54 }, by decide +kernel⟩,
    ⟨[83#8], { st with line.receiver := .receiving [83#8] false }, by decide +kernel⟩,
    ⟨33#8, true, true, [83#8], { st with line.receiver := .receiving [83#8] true }, by decide +kernel⟩,
    ⟨0#8, false, true, [], ⟨.fireClear .one, (Notice.fireClear .one).frame 3, false⟩, { st with
        line.receiver := .receiving [] true, line.drive := .notice, line.flight := some ⟨.fireClear .one, (Notice.fireClear
          .one).frame 3, false⟩ },
      by decide +kernel⟩,
    ⟨32#8, true, [83#8], { st with line.receiver := .receiving [83#8] true }, by decide +kernel⟩⟩

/-- Witness of the cases of Obligations.CharactersTaken: a character of an own notice as sent, another one, and one that no notice
has; and a character at whose end an armed break may begin. -/
theorem witness_CharactersTaken_cases :
    (∃ (char : Byte) (stop b : Bool) (chars : List Byte) (f : Flight) (s : State),
      s.line.receiver = .receiving chars b ∧ s.line.flight = some f ∧
      (stop = false ∨ noticeComplete (chars ++ [char]) = false) ∧ stop = true ∧ f.frame[chars.length]? = some char) ∧
    (∃ (char : Byte) (stop b : Bool) (chars : List Byte) (f : Flight) (s : State),
      s.line.receiver = .receiving chars b ∧ s.line.flight = some f ∧
      (stop = false ∨ noticeComplete (chars ++ [char]) = false) ∧ charsAccepted (chars ++ [char]) = true ∧
      f.frame[chars.length]? ≠ some char) ∧
    (∃ (char : Byte) (stop b : Bool) (chars : List Byte) (f : Flight) (s : State),
      s.line.receiver = .receiving chars b ∧ s.line.flight = some f ∧
      (stop = false ∨ noticeComplete (chars ++ [char]) = false) ∧ charsAccepted (chars ++ [char]) = false) ∧
    (∃ (char : Byte) (b : Bool) (chars : List Byte) (s : State),
      s.line.receiver = .receiving chars b ∧ s.line.flight = none ∧
      (chars = [] → char.toNat ∈ [32, 36, 40, 66, 83, 87, 91, 95]) ∧ (chars.length = 1 → 1 ≤ char.toNat ∧ char.toNat ≤ 32) ∧
      (chars.length = 2 → ((chars.head?.bind kindOfHead).map (fun k => k.lengthAllowed char.toNat)) = some true) ∧
      ((chars ++ [char])[2]?.map (fun n => n.toNat + 5)) ≠ some (chars.length + 1) ∧ s.line.breakArmed = true ∧
      s.line.breakAtEnd = false) :=
  ⟨⟨36#8, true, true, [], ⟨.fireClear .one, (Notice.fireClear .one).frame 3, false⟩, { st with
        line.receiver := .receiving [] true, line.drive := .notice, line.span := some 20, line.flight := some ⟨.fireClear .one,
          (Notice.fireClear .one).frame 3, false⟩ },
      by decide +kernel⟩,
    ⟨32#8, true, true, [], ⟨.fireClear .one, (Notice.fireClear .one).frame 3, false⟩, { st with
        line.receiver := .receiving [] true, line.drive := .notice, line.span := some 20, line.flight := some ⟨.fireClear .one,
          (Notice.fireClear .one).frame 3, false⟩ },
      by decide +kernel⟩,
    ⟨0#8, true, true, [], ⟨.fireClear .one, (Notice.fireClear .one).frame 3, false⟩, { st with
        line.receiver := .receiving [] true, line.drive := .notice, line.span := some 20, line.flight := some ⟨.fireClear .one,
          (Notice.fireClear .one).frame 3, false⟩ },
      by decide +kernel⟩,
    ⟨5#8, true, [0x53#8, 0x01#8, 0x10#8], { st with
        line.receiver := .receiving [0x53#8, 0x01#8, 0x10#8] true, line.breakArmed := true, line.queue := [⟨.fireClear .one, 0,
          false⟩] },
      by decide +kernel⟩⟩

/-- Witness of Obligations.NoticeEnds, clause by clause. -/
theorem witness_NoticeEnds :
    (∃ (char : Byte) (b : Bool) (chars : List Byte) (s : State),
      s.line.receiver = .receiving chars b ∧ noticeComplete (chars ++ [char]) = true ∧ s.line.flight.isSome = true) ∧
    (∃ (char : Byte) (b : Bool) (chars : List Byte) (s : State),
      s.line.receiver = .receiving chars b ∧ noticeComplete (chars ++ [char]) = true ∧ s.line.flight = none ∧
      checkAgrees (chars ++ [char]) = false) ∧
    (∃ (char : Byte) (b : Bool) (chars : List Byte) (s : State),
      s.line.receiver = .receiving chars b ∧ noticeComplete (chars ++ [char]) = true ∧ s.line.flight = none ∧
      checkAgrees (chars ++ [char]) = true ∧ noticeBay chars = s.bay) ∧
    (∃ (char : Byte) (b : Bool) (chars : List Byte) (s : State),
      s.line.receiver = .receiving chars b ∧ noticeComplete (chars ++ [char]) = true ∧ s.line.flight = none ∧
      checkAgrees (chars ++ [char]) = true ∧ noticeBay chars ≠ s.bay ∧ noticeContent (chars ++ [char]) = none) :=
  ⟨⟨((Notice.fireClear .one).frame 3).getLast (by decide), true, ((Notice.fireClear .one).frame 3).dropLast, { st with
        line.receiver := .receiving ((Notice.fireClear .one).frame 3).dropLast true, line.drive := .notice, line.flight := some
          ⟨.fireClear .one, (Notice.fireClear .one).frame 3, false⟩ },
      by decide +kernel⟩,
    ⟨0#8, true, ((Notice.fireClear .one).frame 5).dropLast, { st with
        line.receiver := .receiving ((Notice.fireClear .one).frame 5).dropLast true },
      by decide +kernel⟩,
    ⟨((Notice.fireClear .one).frame 3).getLast (by decide), true, ((Notice.fireClear .one).frame 3).dropLast, { st with
        line.receiver := .receiving ((Notice.fireClear .one).frame 3).dropLast true },
      by decide +kernel⟩,
    ⟨((Notice.fire .one false false).frame 32).getLast (by decide), true, ((Notice.fire .one false false).frame 32).dropLast, {
      st with
        line.receiver := .receiving ((Notice.fire .one false false).frame 32).dropLast true },
      by decide +kernel⟩⟩

/-- Witness of Obligations.NoticeDelivered. -/
theorem witness_NoticeDelivered :
    ∃ (bay : Nat) (n : Notice) (s : State),
      s.hears bay n :=
  ⟨32, .weather ⟨some 600, none, some 359, some true⟩, st,
      by unfold State.hears; decide +kernel⟩

/-- Witness of Obligations.ReportsTaken, clause by clause. -/
theorem witness_ReportsTaken :
    (∃ (bay : Nat) (c : StatusContent) (s : State),
      s.hears bay (.status c)) ∧
    (∃ (bay : Nat) (h : HealthContent) (s : State),
      s.hears bay (.health h)) ∧
    (∃ (bay : Nat) (c : StatusContent) (own : StartItem) (u s : State),
      s.hears bay (.status c) ∧ (u = s.heardFrom bay (fun e => { e with status := some c })) ∧ s.notSuperseded ∧
      s.bud.own.state = .deferred ∧ s.bud.isoOpen = false ∧ s.ownItem own) ∧
    (∃ (bay : Nat) (r : Report) (s : State),
      s.hears bay (.weather r) ∧ s.DemandsFollow) :=
  ⟨⟨1, ⟨.service, .four, Four.all true, true, 65535, [⟨.faulted, some .fire, 1000⟩]⟩, st,
      by unfold State.hears; decide +kernel⟩,
    ⟨32, ⟨65535, 255, 255, 0xFFFF#16, .lost, 63, [1, 255]⟩, st, by unfold State.hears; decide +kernel⟩,
    ⟨32, ⟨.normal, .one, Four.all false, false, 29, []⟩, item 3 40 false, _, { claiming .deferred false [item 5 41 false, item 3
      40 false] with
        peer.entries := [⟨32, 9, true, some ⟨.normal, .one, Four.all false, false, 30, []⟩, none, none⟩] },
      by unfold State.hears; decide +kernel, rfl, .inr (all4 (by decide +kernel)), by decide +kernel⟩,
    ⟨32, ⟨some 600, some 600, some 359, some true⟩, st,
      by unfold State.hears; decide +kernel, demandsFollow_of (by decide)⟩⟩

/-- Witness of the two cases of the third clause of Obligations.ReportsTaken: the STATUS lowers the reckoned current, and it does
not. -/
theorem witness_ReportsTaken_cases :
    (∃ (bay : Nat) (c : StatusContent) (own : StartItem) (u s : State),
      s.hears bay (.status c) ∧ (u = s.heardFrom bay (fun e => { e with status := some c })) ∧ s.notSuperseded ∧
      s.bud.own.state = .deferred ∧ s.bud.isoOpen = false ∧ s.ownItem own ∧ u.reckoned < s.reckoned) ∧
    (∃ (bay : Nat) (c : StatusContent) (own : StartItem) (u s : State),
      s.hears bay (.status c) ∧ (u = s.heardFrom bay (fun e => { e with status := some c })) ∧ s.notSuperseded ∧
      s.bud.own.state = .deferred ∧ s.bud.isoOpen = false ∧ s.ownItem own ∧ s.reckoned ≤ u.reckoned) :=
  ⟨⟨32, ⟨.normal, .one, Four.all false, false, 29, []⟩, item 3 40 false, _, { claiming .deferred false [item 5 41 false, item 3
      40 false] with
        peer.entries := [⟨32, 9, true, some ⟨.normal, .one, Four.all false, false, 30, []⟩, none, none⟩] },
      by unfold State.hears; decide +kernel, rfl, .inr (all4 (by decide +kernel)), by decide +kernel⟩,
    ⟨32, ⟨.normal, .one, Four.all false, false, 30, []⟩, item 3 40 false, _, { claiming .deferred false [item 5 41 false, item 3
      40 false] with
        peer.entries := [⟨32, 9, true, some ⟨.normal, .one, Four.all false, false, 30, []⟩, none, none⟩] },
      by unfold State.hears; decide +kernel, rfl, .inr (all4 (by decide +kernel)), by decide +kernel⟩⟩

/-- Witness of Obligations.FireNotices, clause by clause. -/
theorem witness_FireNotices :
    (∃ (bay : Nat) (z : Zone) (contact heat : Bool) (s : State),
      s.hears bay (.fire z contact heat)) ∧
    (∃ (bay : Nat) (z : Zone) (s : State),
      s.hears bay (.fireClear z)) :=
  ⟨⟨32, .four, false, true, st,
      by unfold State.hears; decide +kernel⟩,
    ⟨8, .one, { st with
          fire.contact := true
          fire.origins.one := [1, 2, 4, 5, 6, 7, 8, 9] },
      by unfold State.hears; decide +kernel⟩⟩

/-- Witness of Obligations.OverrideMap, clause by clause. -/
theorem witness_OverrideMap :
    (∃ (bay : Nat) (k : KeyState) (s : State),
      s.hears bay (.override k) ∧ k ≠ .released) ∧
    (∃ (bay : Nat) (s : State),
      s.hears bay (.override .released)) ∧
    (∃ (bay : Nat) (s : State),
      (∃ o ∈ s.fire.overrides, o.bay = bay ∧ ∃ n ∈ o.age, n ≠ 0)) ∧
    (∃ (bay : Nat) (s : State),
      (∀ o ∈ s.fire.overrides, o.bay = bay → o.age = some 0 ∨ o.age = none)) :=
  ⟨⟨1, .close, { st with fire.overrides := [⟨2, true, some 5⟩, ⟨3, true, none⟩, ⟨4, false, some 9⟩] },
      by unfold State.hears; decide +kernel, by decide +kernel⟩,
    ⟨4, { st with fire.overrides := [⟨4, false, some 9⟩] }, by unfold State.hears; decide +kernel⟩,
    ⟨4, { st with fire.overrides := [⟨4, false, some 15000⟩] }, by decide +kernel⟩,
    ⟨4, { st with fire.overrides := [⟨4, false, some 0⟩, ⟨5, true, some 15000⟩] }, by decide +kernel⟩⟩

/-- Witness of Obligations.VentilationMap, clause by clause. -/
theorem witness_VentilationMap :
    (∃ (bay : Nat) (zones : Four Bool) (v : Nat) (s : State),
      s.hears bay (.ventilate zones v) ∧ zones.get s.zone = true) ∧
    (∃ (bay : Nat) (zones : Four Bool) (v : Nat) (s : State),
      s.hears bay (.ventilate zones v) ∧ zones.get s.zone = false) ∧
    (∃ (bay : Nat) (s : State),
      (∃ o ∈ s.dem.ventMap, o.bay = bay ∧ o.age ≠ 0)) ∧
    (∃ (bay : Nat) (s : State),
      (∀ o ∈ s.dem.ventMap, o.bay = bay → o.age = 0)) :=
  ⟨⟨32, ⟨true, false, false, false⟩, 1000, st, by unfold State.hears; decide +kernel, by decide +kernel⟩,
    ⟨32, ⟨false, true, false, false⟩, 0, { st with dem.ventMap := [⟨32, 500, 9⟩] },
      by unfold State.hears; decide +kernel, by decide +kernel⟩,
    ⟨32, { st with dem.ventMap := [⟨32, 500, 180000⟩] }, by decide +kernel⟩,
    ⟨32, { st with dem.ventMap := [⟨32, 500, 0⟩, ⟨31, 500, 180000⟩] }, by decide +kernel⟩⟩

/-- Witness of Obligations.ClaimArrives, clause by clause. -/
theorem witness_ClaimArrives :
    (∃ (bay inrush : Nat) (set : Four Bool) (fire : Bool) (s : State),
      s.hears bay (.claim set inrush fire)) ∧
    (∃ (bay inrush : Nat) (set : Four Bool) (fire : Bool) (s : State),
      s.hears bay (.claim set inrush fire) ∧ holdsBay bay s.bud.items = false ∧ s.bud.items.length < 16) ∧
    (∃ (bay inrush : Nat) (set : Four Bool) (fire : Bool) (own : StartItem) (s : State),
      s.hears bay (.claim set inrush fire) ∧ s.notSuperseded ∧ s.bud.own.state = .deferred ∧ s.bud.isoOpen = false ∧
      s.ownItem own ∧
      (State.ownItem { s.heardFrom bay id with
          bud.items := (s.bud.items.filter (fun i => i.bay != bay)).drop (if 16 ≤ (s.bud.items.filter (fun i => i.bay !=
            bay)).length then 1 else 0) } own)) ∧
    (∃ (bay inrush : Nat) (set : Four Bool) (fire : Bool) (own : StartItem) (rest : List StartItem) (s : State),
      s.hears bay (.claim set inrush fire) ∧ s.bud.items = own :: rest ∧ rest.length = 15 ∧ s.ownItem own ∧
      holdsBay bay s.bud.items = false ∧ (s.bud.own.state = .settling ∨ s.bud.own.state = .deferred) ∧ s.bud.isoOpen = false) :=
  ⟨⟨20, 65535, Four.all true, true, { st with
        bud.items := (List.range 16).map (fun n => ⟨n + 3, Four.all true, 40, false, 0⟩), bud.own := ⟨.settling, Four.all true,
          false, 40⟩, bud.settleTimer := some 50 },
      by unfold State.hears; decide +kernel⟩,
    ⟨20, 0, ⟨true, false, false, false⟩, false, { st with
        bud.items := (List.range 15).map (fun n => ⟨n + 3, Four.all true, 40, false, 0⟩) },
      by unfold State.hears; decide +kernel, by decide +kernel⟩,
    ⟨5, 41, ⟨true, false, false, false⟩, true, item 3 40 false, (claiming .deferred false [item 5 41 false, item 3 40 false]),
      by unfold State.hears; decide +kernel, .inr (all4 (by decide +kernel)), by decide +kernel⟩,
    ⟨20, 65535, Four.all true, true, item 3 40 false, (List.range 15).map (fun n => ⟨n + 4, Four.all true, 40, false, 0⟩),
      claiming .settling false (item 3 40 false :: (List.range 15).map (fun n => ⟨n + 4, Four.all true, 40, false, 0⟩)),
      by unfold State.hears; decide +kernel, by decide +kernel⟩⟩

/-- Witness of the cases of the last two clauses of Obligations.ClaimArrives: the item that the CLAIM replaces stood ahead of the
own item, which then passes, or does not; it stood behind it; and the own item leaves a full list where a claim is to be
formed. -/
theorem witness_ClaimArrives_cases :
    (∃ (bay inrush : Nat) (set : Four Bool) (fire : Bool) (own : StartItem) (s : State),
      s.hears bay (.claim set inrush fire) ∧ s.notSuperseded ∧ s.bud.own.state = .deferred ∧ s.bud.isoOpen = false ∧
      s.ownItem own ∧
      (State.ownItem { s.heardFrom bay id with
          bud.items := (s.bud.items.filter (fun i => i.bay != bay)).drop (if 16 ≤ (s.bud.items.filter (fun i => i.bay !=
            bay)).length then 1 else 0) } own) ∧
      (∃ i ∈ s.bud.items, i.bay = bay ∧ (i.fire = true ∨ i ∈ s.bud.items.takeWhile (fun x => x.bay != s.bay))) ∧
      (State.passes { s.heardFrom bay id with
          bud.items := (s.bud.items.filter (fun i => i.bay != bay)).drop (if 16 ≤ (s.bud.items.filter (fun i => i.bay !=
            bay)).length then 1 else 0) } own)) ∧
    (∃ (bay inrush : Nat) (set : Four Bool) (fire : Bool) (own : StartItem) (s : State),
      s.hears bay (.claim set inrush fire) ∧ s.notSuperseded ∧ s.bud.own.state = .deferred ∧ s.bud.isoOpen = false ∧
      s.ownItem own ∧
      (State.ownItem { s.heardFrom bay id with
          bud.items := (s.bud.items.filter (fun i => i.bay != bay)).drop (if 16 ≤ (s.bud.items.filter (fun i => i.bay !=
            bay)).length then 1 else 0) } own) ∧
      (∃ i ∈ s.bud.items, i.bay = bay ∧ (i.fire = true ∨ i ∈ s.bud.items.takeWhile (fun x => x.bay != s.bay))) ∧
      (¬State.passes { s.heardFrom bay id with
          bud.items := (s.bud.items.filter (fun i => i.bay != bay)).drop (if 16 ≤ (s.bud.items.filter (fun i => i.bay !=
            bay)).length then 1 else 0) } own)) ∧
    (∃ (bay inrush : Nat) (set : Four Bool) (fire : Bool) (own : StartItem) (s : State),
      s.hears bay (.claim set inrush fire) ∧ s.notSuperseded ∧ s.bud.own.state = .deferred ∧ s.bud.isoOpen = false ∧
      s.ownItem own ∧
      (State.ownItem { s.heardFrom bay id with
          bud.items := (s.bud.items.filter (fun i => i.bay != bay)).drop (if 16 ≤ (s.bud.items.filter (fun i => i.bay !=
            bay)).length then 1 else 0) } own) ∧
      (∀ i ∈ s.bud.items, i.bay = bay → i.fire = false ∧ i ∉ s.bud.items.takeWhile (fun x => x.bay != s.bay)) ∧
      (s.bud.items.filter (fun i => i.bay != bay)).length < 16) ∧
    (∃ (bay inrush : Nat) (set : Four Bool) (fire : Bool) (own : StartItem) (rest : List StartItem) (s : State),
      s.hears bay (.claim set inrush fire) ∧ (∃ c, (s.chan c).state = .waiting) ∧ s.bud.items = own :: rest ∧ rest.length = 15 ∧
      s.ownItem own ∧ holdsBay bay s.bud.items = false ∧ (s.bud.own.state = .settling ∨ s.bud.own.state = .deferred) ∧
      s.bud.isoOpen = false ∧ s.bud.own.state = .deferred ∧ s.claimsAllowed = true ∧ s.supplyVeto = false) :=
  ⟨⟨5, 41, ⟨true, false, false, false⟩, true, item 3 40 false, (claiming .deferred false [item 5 41 false, item 3 40 false]),
      by unfold State.hears; decide +kernel, .inr (all4 (by decide +kernel)), by decide +kernel⟩,
    ⟨5, 41, ⟨true, false, false, false⟩, true, item 3 40 false, (claiming .deferred false [item 5 41 true, item 6 41 false, item
      3 40 false]),
      by unfold State.hears; decide +kernel, .inr (all4 (by decide +kernel)), by decide +kernel⟩,
    ⟨5, 41, ⟨true, false, false, false⟩, true, item 3 40 false, (claiming .deferred false [item 3 40 false, item 5 41 false]),
      by unfold State.hears; decide +kernel, .inr (all4 (by decide +kernel)), by decide +kernel⟩,
    ⟨20, 65535, Four.all true, true, item 3 40 false, (List.range 15).map (fun n => ⟨n + 4, Four.all true, 40, false, 0⟩),
      claiming .deferred false (item 3 40 false :: (List.range 15).map (fun n => ⟨n + 4, Four.all true, 40, false, 0⟩)),
      by unfold State.hears; decide +kernel, ⟨.one, by decide⟩, by decide +kernel⟩⟩

/-- Witness of Obligations.SpanReached, clause by clause. -/
theorem witness_SpanReached :
    (∃ (chars : List Byte) (b : Bool) (s : State),
      s.longSpan = false ∧ s.line.flight = none ∧ s.line.receiver = .receiving chars b) ∧
    (∃ (s : State),
      s.longSpan = false ∧ s.line.flight = none ∧ (s.line.receiver = .idle ∨ s.line.receiver = .recovering)) ∧
    (∃ (s : State),
      s.StartRule ∧ s.longSpan = true ∧ s.line.isolation = false ∧ s.fire.pulseTimer = none) :=
  ⟨⟨[83#8], true, { st with line.receiver := .receiving [83#8] true, line.span := some 54 }, by decide +kernel⟩,
    ⟨{ st with line.span := some 54 }, by decide +kernel⟩,
    ⟨{ st with line.receiver := .recovering, line.span := some 55, line.spanLong := true },
      startRule_of (by decide), by decide +kernel⟩⟩

/-- Witness of Obligations.SpanReleased, clause by clause. -/
theorem witness_SpanReleased :
    (∃ (len : Nat) (s : State),
      s.line.drive ≠ .breakPulse ∧ s.longSpan = false ∧ max (s.line.span.getD 0) (5 * len) < 55) ∧
    (∃ (_len : Nat) (s : State), s.line.drive = .breakPulse) ∧
    (∃ (len : Nat) (s : State),
      s.line.drive ≠ .breakPulse ∧ s.longSpan = false ∧ s.line.flight = none ∧ 1 ∉ s.sup.faults ∧
      55 ≤ max (s.line.span.getD 0) (5 * len) ∧ max (s.line.span.getD 0) (5 * len) < 38400) ∧
    (∃ (_len : Nat) (s : State),
      s.line.drive ≠ .breakPulse ∧ s.longSpan = true ∧ 1 ∈ s.sup.faults) ∧
    (∃ (len : Nat) (s : State),
      s.line.drive ≠ .breakPulse ∧ s.longSpan = true ∧ 1 ∉ s.sup.faults ∧
      max (s.line.span.getD 0) (5 * len) < 38400) ∧
    (∃ (len : Nat) (s : State),
      s.line.drive ≠ .breakPulse ∧ s.longSpan = true ∧ 1 ∉ s.sup.faults ∧
      38400 ≤ max (s.line.span.getD 0) (5 * len) ∧ max (s.line.span.getD 0) (5 * len) < 192000) ∧
    (∃ (s : State),
      s.line.drive = .breakPulse ∧ s.line.breakTimer.isSome = true ∧ s.line.receiver = .recovering ∧ s.line.flight = none) ∧
    (∃ (len : Nat) (s : State),
      s.line.drive = .breakPulse ∧ s.line.breakTimer.isSome = true ∧ s.line.receiver = .recovering ∧ s.line.flight = none ∧
      1 ∉ s.sup.faults ∧ max (s.line.span.getD 0) (5 * len) < 38400) ∧
    (∃ (s : State),
      s.line.drive = .holdDown ∧ s.line.pulseEndTimer.isSome = true) ∧
    (∃ (len : Nat) (s : State),
      s.line.drive = .holdDown ∧ s.line.pulseEndTimer.isSome = true ∧ s.longSpan = false ∧
      max (s.line.span.getD 0) (5 * len) < 55) ∧
    (∃ (len : Nat) (s : State),
      s.line.drive = .holdDown ∧ s.line.pulseEndTimer.isSome = true ∧ s.longSpan = true ∧ 1 ∉ s.sup.faults ∧
      max (s.line.span.getD 0) (5 * len) < 38400) ∧
    (∃ (len : Nat) (s : State),
      s.line.drive = .holdDown ∧ s.line.pulseEndTimer.isSome = true ∧ s.longSpan = true ∧ 1 ∉ s.sup.faults ∧
      38400 ≤ max (s.line.span.getD 0) (5 * len) ∧ max (s.line.span.getD 0) (5 * len) < 192000) :=
  ⟨⟨10, { st with line.span := some 50 }, by decide +kernel⟩,
    ⟨30, { st with line.drive := .breakPulse }, rfl⟩,
    ⟨11, { st with line.span := some 50, line.receiver := .receiving [83#8] true }, by decide +kernel⟩,
    ⟨38400, { st with line.receiver := .recovering, line.spanLong := true, line.span := some 192000, sup.faults := [1] },
      by decide +kernel⟩,
    ⟨7679, { st with line.receiver := .recovering, line.spanLong := true, line.span := some 55 }, by decide +kernel⟩,
    ⟨38399, { st with line.receiver := .recovering, line.spanLong := true, line.span := some 55 }, by decide +kernel⟩,
    ⟨{ st with
        line.drive := .breakPulse, line.breakTimer := some 0, line.receiver := .recovering, line.spanLong := true, line.span :=
          some 55 },
      by decide +kernel⟩,
    ⟨30, { st with
        line.drive := .breakPulse, line.breakTimer := some 54, line.receiver := .recovering, line.spanLong := true, line.span :=
          some 96 },
      by decide +kernel⟩,
    ⟨{ st with
        line.drive := .holdDown, line.pulseEndTimer := some 0, line.receiver := .recovering, line.spanLong := true, line.span :=
          some 57600 },
      by decide +kernel⟩,
    ⟨0, { st with line.drive := .holdDown, line.pulseEndTimer := some 0, line.span := none }, by decide +kernel⟩,
    ⟨7679, { st with
        line.drive := .holdDown, line.pulseEndTimer := some 0, line.receiver := .recovering, line.spanLong := true, line.span :=
          some 55 },
      by decide +kernel⟩,
    ⟨11520, { st with
        line.drive := .holdDown, line.pulseEndTimer := some 0, line.receiver := .recovering, line.spanLong := true, line.span :=
          some 57504 },
      by decide +kernel⟩⟩

/-- Witness of Obligations.AttemptBegins, clause by clause. -/
theorem witness_AttemptBegins :
    (∃ (idle : Nat) (e : QueueEntry) (rest : List QueueEntry) (n : Notice) (s : State),
      s.line.queue = e :: rest ∧ s.starting = false ∧ s.line.drive = .released ∧ s.line.receiver = .idle ∧
      s.line.flight = none ∧
      (5 * (12 + match e.notice.noticeClass with | .alarm => 0 | .motion => 8 + s.bay | .routine => 24 + s.bay) ≤ max
        s.line.recessive (5 * idle)) ∧
      (n = (match e.notice with | .health h => .health { h with
          valid := s.line.valid, discard := s.line.discard, dropped := s.line.dropped } | m => m))) ∧
    (∃ (idle : Nat) (e : QueueEntry) (rest : List QueueEntry) (s : State),
      s.line.queue = e :: rest ∧
      (max s.line.recessive (5 * idle) < 5 * (12 + match e.notice.noticeClass with | .alarm => 0 | .motion => 8 + s.bay | .routine => 24 + s.bay))) ∧
    (∃ (idle : Nat) (s : State),
      s.StartRule ∧ s.line.isolation = true ∧ s.line.flight = none ∧ s.line.queue ≠ [] ∧ s.line.receiver = .idle ∧
      5 * (36 + s.bay) ≤ 5 * idle) ∧
    (∃ (frame : List Byte) (b : Byte) (n i : Nat),
      frame[n]? = some b ∧ i < 10) ∧
    (∃ (sent read : List Bool) (n k : Nat),
      read.take n = sent.take n ∧ n < sent.length ∧ n < read.length ∧ read[n]? ≠ sent[n]? ∧ n < k) ∧
    (∃ (sent read : List Bool) (n k : Nat),
      read.take n = sent.take n ∧ k ≤ n) ∧
    (∃ (f : Flight) (_read : List Bool) (_bit : Nat) (s : State),
      s.line.drive = .notice ∧ s.line.flight = some f) :=
  ⟨⟨39, ⟨.health ⟨0, 0, 0, 0#16, .clean, 0, []⟩, 0, false⟩, [], .health ⟨7, 8, 9, 0#16, .clean, 0, []⟩, { st with
        line.queue := [⟨.health ⟨0, 0, 0, 0#16, .clean, 0, []⟩, 0, false⟩], line.valid := 7, line.discard := 8, line.dropped :=
          9 },
      by decide +kernel⟩,
    ⟨38, ⟨.weather Report.empty, 0, false⟩, [], { st with line.queue := [⟨.weather Report.empty, 0, false⟩] },
      by decide +kernel⟩,
    ⟨39, { st with
        sup.mode := .isolated, line.isolation := true, line.queue := [⟨.weather Report.empty, 0, false⟩] },
      startRule_isolated (by decide +kernel), by decide +kernel⟩,
    ⟨[0#8, 83#8], 83#8, 1, 9, by decide +kernel⟩,
    ⟨[true, false, true], [true, true], 1, 2, by decide +kernel⟩,
    ⟨[true, false, true], [true, true], 1, 1, by decide +kernel⟩,
    ⟨⟨.fireClear .one, (Notice.fireClear .one).frame 3, false⟩, [true], 70, { st with
        line.drive := .notice, line.flight := some ⟨.fireClear .one, (Notice.fireClear .one).frame 3, false⟩ },
      by decide +kernel⟩⟩

/-- Witness of Obligations.FailedAttempt, clause by clause. -/
theorem witness_FailedAttempt :
    (∃ (f : Flight) (s : State),
      s.line.flight = some f ∧
      (∀ e ∈ s.line.queue, e.notice.key = f.content.key → e.notice.noticeClass = .alarm ∨ e.failed < 15)) ∧
    (∃ (f : Flight) (s : State),
      s.line.flight = some f ∧
      (∃ e ∈ s.line.queue, e.notice.key = f.content.key ∧ e.notice.noticeClass ≠ .alarm ∧ 15 ≤ e.failed)) ∧
    (∃ (f : Flight) (s : State),
      s.line.flight = some f ∧ (s.line.echoRun < 7 ∨ s.line.isolation = true) ∧
      (∀ e ∈ s.line.queue, e.notice.key = f.content.key → e.notice.noticeClass = .alarm ∨ e.failed < 15)) ∧
    (∃ (f : Flight) (s : State),
      s.StartRule ∧ s.line.flight = some f ∧ s.line.echoRun = 7 ∧ s.line.isolation = false ∧ s.fire.pulseTimer = none ∧
      (∀ e ∈ s.line.queue, e.notice.key = f.content.key → e.notice.noticeClass = .alarm ∨ e.failed < 15)) ∧
    (∃ (f : Flight) (s : State),
      s.line.flight = some f ∧ s.longSpan = false ∧
      (∀ e ∈ s.line.queue, e.notice.key = f.content.key → e.notice.noticeClass = .alarm ∨ e.failed < 15)) :=
  ⟨⟨⟨.fireClear .one, [], false⟩, { st with
        line.flight := some ⟨.fireClear .one, [], false⟩, line.queue := [⟨.fireClear .one, 15, false⟩] },
      by decide +kernel⟩,
    ⟨⟨.weather Report.empty, [], false⟩, { st with
        line.flight := some ⟨.weather Report.empty, [], false⟩, line.queue := [⟨.weather Report.empty, 15, false⟩] },
      by decide +kernel⟩,
    ⟨⟨.weather Report.empty, [], false⟩, { st with
        line.flight := some ⟨.weather Report.empty, [], false⟩, line.queue := [⟨.weather Report.empty, 14, false⟩], line.echoRun
          := 6 },
      by decide +kernel⟩,
    ⟨⟨.weather Report.empty, [], false⟩, { st with
        line.flight := some ⟨.weather Report.empty, [], false⟩, line.queue := [⟨.weather Report.empty, 14, false⟩], line.echoRun
          := 7 },
      startRule_of (by decide), by decide +kernel⟩,
    ⟨⟨.weather Report.empty, [], false⟩, { st with
        line.flight := some ⟨.weather Report.empty, [], false⟩, line.queue := [⟨.weather Report.empty, 14, false⟩], line.span :=
          some 54 },
      by decide +kernel⟩⟩

/-- Witness of the cases of Obligations.FailedAttempt in which the CLAIM of a QUEUED claim is dropped with a channel waiting, in which
the eighth echo fault ends a QUEUED claim, and in which a CLAIM takes a further echo fault while the isolation condition stands. -/
theorem witness_FailedAttempt_cases :
    (∃ (f : Flight) (s : State),
      (∃ c, (s.chan c).state = .waiting) ∧ s.line.flight = some f ∧
      (∃ e ∈ s.line.queue, e.notice.key = f.content.key ∧ e.notice.noticeClass ≠ .alarm ∧ 15 ≤ e.failed) ∧
      f.content.kind = .claim ∧ s.bud.own.state = .queued ∧ s.bud.isoOpen = false ∧ s.claimsAllowed = true ∧
      s.supplyVeto = false) ∧
    (∃ (f : Flight) (s : State),
      s.StartRule ∧ s.line.flight = some f ∧ s.line.echoRun = 7 ∧ s.line.isolation = false ∧ s.fire.pulseTimer = none ∧
      (∀ e ∈ s.line.queue, e.notice.key = f.content.key → e.notice.noticeClass = .alarm ∨ e.failed < 15) ∧
      s.bud.own.state = .queued) ∧
    (∃ (f : Flight) (s : State),
      s.line.flight = some f ∧ (s.line.echoRun < 7 ∨ s.line.isolation = true) ∧
      (∀ e ∈ s.line.queue, e.notice.key = f.content.key → e.notice.noticeClass = .alarm ∨ e.failed < 15) ∧
      s.line.echoRun = 8 ∧ s.line.isolation = true ∧ f.content.kind = .claim) :=
  ⟨⟨⟨.claim ⟨true, false, false, false⟩ 40 false, [], false⟩, { claiming .queued false [] with
        line.flight := some ⟨.claim ⟨true, false, false, false⟩ 40 false, [], false⟩, line.queue := [⟨.claim ⟨true, false,
          false, false⟩ 40 false, 15, false⟩] },
      ⟨.one, by decide +kernel⟩, by decide +kernel⟩,
    ⟨⟨.claim ⟨true, false, false, false⟩ 40 false, [], false⟩, { st with
        line.flight := some ⟨.claim ⟨true, false, false, false⟩ 40 false, [], false⟩, line.queue := [⟨.claim ⟨true, false,
          false, false⟩ 40 false, 2, false⟩], line.echoRun := 7, bud.own := ⟨.queued, Four.all true, false, 40⟩ },
      startRule_of (by decide), by decide +kernel⟩,
    ⟨⟨.claim ⟨true, false, false, false⟩ 40 false, [], false⟩, { staleClaim with
        line.flight := some ⟨.claim ⟨true, false, false, false⟩ 40 false, [], false⟩, line.echoRun := 8, line.isolation := true },
      by decide +kernel⟩⟩

/-- Witness of Obligations.CleanEcho, clause by clause. -/
theorem witness_CleanEcho :
    (∃ (f : Flight) (s : State),
      s.line.flight = some f ∧ s.line.isolation = false ∧ f.content.kind ≠ .health ∧ f.content.kind ≠ .claim) ∧
    (∃ (f : Flight) (h : HealthContent) (s : State),
      s.line.flight = some f ∧ s.line.isolation = false ∧ f.content = .health h) ∧
    (∃ (f : Flight) (set : Four Bool) (inrush : Nat) (fire : Bool) (s : State),
      s.line.flight = some f ∧ s.line.isolation = false ∧ f.content = .claim set inrush fire) ∧
    (∃ (f : Flight) (s : State),
      s.line.flight = some f ∧ s.line.isolation = true ∧ f.content.kind ≠ .health ∧ s.bud.own.state = .none) ∧
    (∃ (f : Flight) (h : HealthContent) (s : State),
      s.line.flight = some f ∧ s.line.isolation = true ∧ f.content = .health h ∧ s.bud.own.state = .none) :=
  ⟨⟨⟨.weather Report.empty, [], false⟩, { st with
        line.flight := some ⟨.weather Report.empty, [], false⟩, line.queue := [⟨.weather Report.empty, 1, false⟩] },
      by decide +kernel⟩,
    ⟨⟨.health ⟨65535, 255, 255, 0#16, .clean, 0, []⟩, [], false⟩, ⟨65535, 255, 255, 0#16, .clean, 0, []⟩, { st with
        line.flight := some ⟨.health ⟨65535, 255, 255, 0#16, .clean, 0, []⟩, [], false⟩, line.queue := [⟨.health ⟨65535, 255,
          255, 0#16, .clean, 0, []⟩, 1, false⟩] },
      by decide +kernel⟩,
    ⟨⟨.claim ⟨true, false, false, false⟩ 40 false, [], false⟩, ⟨true, false, false, false⟩, 40, false, { st with
        line.flight := some ⟨.claim ⟨true, false, false, false⟩ 40 false, [], false⟩, line.queue := [⟨.claim ⟨true, false,
          false, false⟩ 40 false, 1, false⟩] },
      by decide +kernel⟩,
    ⟨⟨.claim ⟨true, false, false, false⟩ 40 false, [], false⟩, { st with
        line.flight := some ⟨.claim ⟨true, false, false, false⟩ 40 false, [], false⟩, line.queue := [⟨.claim ⟨true, false,
          false, false⟩ 40 false, 1, false⟩], line.isolation := true, sup.mode := .isolated },
      by decide +kernel⟩,
    ⟨⟨.health ⟨7, 3, 0, 0#16, .clean, 0, [15]⟩, [], false⟩, ⟨7, 3, 0, 0#16, .clean, 0, [15]⟩, { st with
        line.flight := some ⟨.health ⟨7, 3, 0, 0#16, .clean, 0, [15]⟩, [], false⟩, line.isolation := true, sup.mode := .isolated },
      by decide +kernel⟩⟩

/-- Witness of the cases of Obligations.CleanEcho: a notice replaced in flight; a CLAIM whose claim is no longer live; one replaced
in flight; and the live claim's own. -/
theorem witness_CleanEcho_cases :
    (∃ (f : Flight) (s : State),
      s.line.flight = some f ∧ s.line.isolation = false ∧ f.content.kind ≠ .health ∧ f.content.kind ≠ .claim ∧ f.replaced = true) ∧
    (∃ (f : Flight) (set : Four Bool) (inrush : Nat) (fire : Bool) (s : State),
      s.line.flight = some f ∧ s.line.isolation = false ∧ f.content = .claim set inrush fire ∧ f.replaced = false ∧
      s.bud.own.state ≠ .queued) ∧
    (∃ (f : Flight) (set : Four Bool) (inrush : Nat) (fire : Bool) (s : State),
      s.line.flight = some f ∧ s.line.isolation = false ∧ f.content = .claim set inrush fire ∧ f.replaced = true ∧
      s.bud.own.state = .queued) ∧
    (∃ (f : Flight) (set : Four Bool) (inrush : Nat) (fire : Bool) (s : State),
      s.notSuperseded ∧ s.line.flight = some f ∧ s.line.isolation = false ∧ f.content = .claim set inrush fire ∧
      f.replaced = false ∧ s.bud.own.state = .queued) :=
  ⟨⟨⟨.weather Report.empty, [], true⟩, { st with
        line.flight := some ⟨.weather Report.empty, [], true⟩, line.queue := [⟨.weather Report.empty, 1, false⟩] },
      by decide +kernel⟩,
    ⟨⟨.claim ⟨true, false, false, false⟩ 40 false, [], false⟩, ⟨true, false, false, false⟩, 40, false, { st with
        line.flight := some ⟨.claim ⟨true, false, false, false⟩ 40 false, [], false⟩, line.queue := [⟨.claim ⟨true, false,
          false, false⟩ 40 false, 1, false⟩], bud.own := ⟨.settling, Four.all true, false, 40⟩ },
      by decide +kernel⟩,
    ⟨⟨.claim ⟨true, false, false, false⟩ 40 false, [], true⟩, ⟨true, false, false, false⟩, 40, false, { claiming .queued false
      [] with
        line.flight := some ⟨.claim ⟨true, false, false, false⟩ 40 false, [], true⟩, line.queue := [⟨.claim ⟨true, false, false,
          false⟩ 40 false, 1, false⟩] },
      by decide +kernel⟩,
    ⟨⟨.claim ⟨true, false, false, false⟩ 40 false, [], false⟩, ⟨true, false, false, false⟩, 40, false, { claiming .queued false
      [] with
        line.flight := some ⟨.claim ⟨true, false, false, false⟩ 40 false, [], false⟩, line.queue := [⟨.claim ⟨true, false,
          false, false⟩ 40 false, 1, false⟩] },
      .inr (all4 (by decide +kernel)), by decide +kernel⟩⟩

/-- Witness of Obligations.BreaksAndPulses, clause by clause. -/
theorem witness_BreaksAndPulses :
    (∃ (e : QueueEntry) (rest : List QueueEntry) (chars : List Byte) (s : State),
      s.line.queue = e :: rest ∧ s.line.receiver = .receiving chars false ∧ s.line.breakAtEnd = true ∧ s.starting = false ∧
      s.line.drive = .released ∧ s.line.flight = none ∧ e.notice.noticeClass = .alarm ∧ e.mark = false) ∧
    (∃ (s : State),
      (s.line.breakAtEnd = false ∨ (∃ chars, s.line.receiver = .receiving chars true))) ∧
    (∃ (s : State),
      (s.line.pulseRequested = false ∨ s.starting = true ∨ s.line.flight ≠ none)) ∧
    (∃ (s : State),
      s.line.pulseRequested = true ∧ s.starting = false ∧ s.line.flight = none ∧ 1 ∈ s.sup.faults) ∧
    (∃ (s : State),
      s.line.pulseRequested = true ∧ s.starting = false ∧ s.line.flight = none ∧ 1 ∉ s.sup.faults) :=
  ⟨⟨⟨.fireClear .one, 2, false⟩, [⟨.weather Report.empty, 0, false⟩], [0x53#8, 0x01#8, 0x55#8, 0x0A#8], { st with
        line.queue := [⟨.fireClear .one, 2, false⟩, ⟨.weather Report.empty, 0, false⟩], line.receiver := .receiving [0x53#8,
          0x01#8, 0x55#8, 0x0A#8] false, line.breakArmed := true, line.breakAtEnd := true },
      by decide +kernel⟩,
    ⟨{ st with
        line.breakArmed := true, line.breakAtEnd := true, line.receiver := .receiving [0x53#8, 0x01#8, 0x55#8, 0x0A#8] true,
          line.queue := [⟨.fireClear .one, 2, false⟩] },
      .inr ⟨_, rfl⟩⟩,
    ⟨{ atListen with line.pulseRequested := true }, by decide +kernel⟩,
    ⟨{ st with line.pulseRequested := true, sup.faults := [1, 15] }, by decide +kernel⟩,
    ⟨{ st with
        line.pulseRequested := true, line.drive := .holdDown, line.pulseEndTimer := some 1, line.receiver := .recovering },
      by decide +kernel⟩⟩

/-- Witness of Obligations.RepeatedNotices, clause by clause. -/
theorem witness_RepeatedNotices :
    (∃ (s : State),
      s.localFire = true ∧ s.sched.fireResend.isSome = true) ∧
    (∃ (s : State),
      s.sched.overrideRepeat.isSome = true) ∧
    (∃ (s : State),
      s.sensorStation = true ∧ s.sched.weatherPeriod.isSome = true) ∧
    (∃ (s : State),
      s.sched.healthPeriod.isSome = true) :=
  ⟨⟨{ st with fire.heat := true, sched.fireResend := some 0 }, by decide +kernel⟩,
    ⟨{ st with fire.keyTaken := .close, sched.overrideRepeat := some 0 }, by decide +kernel⟩,
    ⟨{ st with sched.weatherPeriod := some 0 }, by decide +kernel⟩,
    ⟨{ st with sched.healthPeriod := some 0 }, by decide +kernel⟩⟩

/-- Witness of Obligations.StatusQueued, clause by clause. -/
theorem witness_StatusQueued :
    (∃ (s : State),
      s.starting = false ∧ s.sched.statusPeriod.isSome = true) ∧
    (∃ (last : StatusContent) (s : State),
      (∀ c, (s.chan c).state ≠ .waiting) ∧ s.starting = false ∧ s.sched.lastStatus = some last ∧
      last.channels.length = s.statusContent.channels.length ∧ s.bud.own.state = .none ∧ last.reportDue s.statusContent) ∧
    (∃ (last : StatusContent) (s : State),
      (∀ c, (s.chan c).state ≠ .waiting) ∧ s.sched.lastStatus = some last ∧
      last.channels.length = s.statusContent.channels.length ∧ s.bud.own.state = .none ∧
      (s.starting = true ∨ ¬last.reportDue s.statusContent)) ∧
    (∃ (c : Chan) (mean : Nat) (last : StatusContent) (u s : State),
      (u = s.setChan c { s.chan c with drv.current := some (min 65535 mean), drv.reportTimer := some 100 }) ∧
      s.sched.lastStatus = some last ∧ (∀ c, (s.chan c).state ≠ .waiting) ∧ (s.chan c).driven = true ∧
      (s.chan c).drv.reportTimer.isSome = true ∧ s.starting = false ∧ s.sched.statusSpacing = none ∧
      last.channels.length = u.statusContent.channels.length ∧ s.bud.own.state = .none) :=
  ⟨⟨{ st with sched.statusPeriod := some 0 }, by decide +kernel⟩,
    ⟨{ st.statusContent with
        current := 5 }, { st with
        sched.lastStatus := some { st.statusContent with
        current := 5 }, sched.statusSpacing := some 0 },
      all4 (by decide +kernel), by decide +kernel⟩,
    ⟨{ st.statusContent with
        current := 4 }, { st with
        sched.lastStatus := some { st.statusContent with
        current := 4 }, sched.statusSpacing := some 0 },
      all4 (by decide +kernel), by decide +kernel⟩,
    ⟨.one, 20, _, _, { stK { driving .closing 2500 with
        drv.reportTimer := some 0 } with
        sched.lastStatus := some (stK (driving .closing 2500)).statusContent },
      rfl, rfl, all4 (by decide +kernel), by decide +kernel⟩⟩

/-- Witness of the two cases of the last clause of Obligations.StatusQueued: the current differs by 5, and by 4. -/
theorem witness_StatusQueued_cases :
    (∃ (c : Chan) (mean : Nat) (last : StatusContent) (u s : State),
      (u = s.setChan c { s.chan c with drv.current := some (min 65535 mean), drv.reportTimer := some 100 }) ∧
      s.sched.lastStatus = some last ∧ (∀ c, (s.chan c).state ≠ .waiting) ∧ (s.chan c).driven = true ∧
      (s.chan c).drv.reportTimer.isSome = true ∧ s.starting = false ∧ s.sched.statusSpacing = none ∧
      last.channels.length = u.statusContent.channels.length ∧ s.bud.own.state = .none ∧ last.reportDue u.statusContent) ∧
    (∃ (c : Chan) (mean : Nat) (last : StatusContent) (u s : State),
      (u = s.setChan c { s.chan c with drv.current := some (min 65535 mean), drv.reportTimer := some 100 }) ∧
      s.sched.lastStatus = some last ∧ (∀ c, (s.chan c).state ≠ .waiting) ∧ (s.chan c).driven = true ∧
      (s.chan c).drv.reportTimer.isSome = true ∧ s.starting = false ∧ s.sched.statusSpacing = none ∧
      last.channels.length = u.statusContent.channels.length ∧ s.bud.own.state = .none ∧ ¬last.reportDue u.statusContent) :=
  ⟨⟨.one, 20, _, _, { stK { driving .closing 2500 with
        drv.reportTimer := some 0 } with
        sched.lastStatus := some (stK (driving .closing 2500)).statusContent },
      rfl, rfl, all4 (by decide +kernel), by decide +kernel⟩,
    ⟨.one, 19, _, _, { stK { driving .closing 2500 with
        drv.reportTimer := some 0 } with
        sched.lastStatus := some (stK (driving .closing 2500)).statusContent },
      rfl, rfl, all4 (by decide +kernel), by decide +kernel⟩⟩

/-- Witness of Obligations.VentilateQueued, clause by clause. -/
theorem witness_VentilateQueued :
    (∃ (raw : Raw) (s : State),
      s.detected = true ∧ s.fields.demandFitted = true ∧
      (∀ q ∈ s.sched.lastVentilate, raw.toNat * 1000 / 1023 < q + 10 ∧ q < raw.toNat * 1000 / 1023 + 10)) ∧
    (∃ (raw : Raw) (s : State),
      s.detected = true ∧ s.fields.demandFitted = true ∧
      (∃ q ∈ s.sched.lastVentilate, q + 10 ≤ raw.toNat * 1000 / 1023 ∨ raw.toNat * 1000 / 1023 + 10 ≤ q) ∧
      (ofBits4 s.fields.ventZones).get s.zone = true ∧ s.dem.ventMap.length < 4) ∧
    (∃ (s : State),
      s.fields.demandFitted = true ∧ s.sched.ventilatePeriod.isSome = true ∧ (ofBits4 s.fields.ventZones).get s.zone = false) ∧
    (∃ (o : VentOrigin) (s : State),
      s.fields.demandFitted = true ∧ s.sched.ventilatePeriod.isSome = true ∧
      (ofBits4 s.fields.ventZones).get s.zone = true ∧ s.dem.ventMap.length = 4 ∧ (∀ x ∈ s.dem.ventMap, x.bay ≠ s.bay) ∧
      o ∈ s.dem.ventMap ∧ (∀ x ∈ s.dem.ventMap, x = o ∨ x.age < o.age ∨ (x.age = o.age ∧ x.bay < o.bay))) :=
  ⟨⟨10, { st with sched.lastVentilate := some 0 }, by decide +kernel⟩,
    ⟨1023, { st with sched.lastVentilate := some 990 }, by decide +kernel⟩,
    ⟨{ st with cfg.fields.ventZones := 2, sched.ventilatePeriod := some 0 }, by decide +kernel⟩,
    ⟨⟨9, 0, 50⟩, { st with
          dem.ventMap := [⟨8, 0, 50⟩, ⟨9, 0, 50⟩, ⟨7, 0, 49⟩, ⟨6, 0, 0⟩]
          sched.ventilatePeriod := some 0 }, by decide +kernel⟩⟩

/-- Witness of Obligations.PeerAgeing, clause by clause. -/
theorem witness_PeerAgeing :
    (∃ (bay : Nat) (s : State),
      s.DemandsFollow ∧ (∃ e ∈ s.peer.entries, e.bay = bay ∧ ∃ h ∈ e.weather, h.offered = true ∧ h.age ≠ 0)) ∧
    (∃ (bay : Nat) (s : State),
      (∃ e ∈ s.peer.entries, e.bay = bay ∧ e.age ≠ 0)) ∧
    (∃ (bay : Nat) (s : State),
      (∃ e ∈ s.peer.entries, e.bay = bay ∧ e.age ≠ 0) ∧
      (∀ e ∈ s.peer.entries, e.bay = bay → (e.weather.map (·.offered)) ≠ some true)) ∧
    (∃ (bay : Nat) (s : State),
      s.DemandsFollow ∧ (∃ e ∈ s.peer.entries, e.bay = bay ∧ e.age ≠ 0) ∧
      (∃ e ∈ s.peer.entries, e.bay = bay ∧ (e.weather.map (·.offered)) = some true)) ∧
    (∃ (n : Nat) (s : State),
      s.peer.conflictTimer = some n ∧ n ≠ 60000) ∧
    (∃ (bay : Nat) (s : State),
      (∀ e ∈ s.peer.entries, e.bay = bay → ∀ h ∈ e.weather, h.age = 0)) ∧
    (∃ (bay : Nat) (s : State),
      (∀ e ∈ s.peer.entries, e.bay = bay → e.age = 0)) ∧
    (∃ (s : State),
      s.peer.conflictTimer = some 60000) ∧
    (∃ (bay : Nat) (own : StartItem) (s : State),
      s.notSuperseded ∧ (∃ e ∈ s.peer.entries, e.bay = bay ∧ e.age ≠ 0) ∧ s.bud.own.state = .deferred ∧ s.bud.isoOpen = false ∧
      s.ownItem own) :=
  ⟨⟨32, { st with peer.entries := [⟨32, 9, true, none, some ⟨⟨some 5, none, none, none⟩, 9, true⟩, none⟩] },
      demandsFollow_of (by decide +kernel), by decide +kernel⟩,
    ⟨32, { st with peer.entries := [⟨32, 9, true, none, some ⟨⟨some 5, none, none, none⟩, 9, true⟩, none⟩] },
      by decide +kernel⟩,
    ⟨32, { st with peer.entries := [⟨32, 60000, false, none, none, none⟩] }, by decide +kernel⟩,
    ⟨32, { st with peer.entries := [⟨32, 9, true, none, some ⟨⟨some 5, none, none, none⟩, 9, true⟩, none⟩] },
      demandsFollow_of (by decide +kernel), by decide +kernel⟩,
    ⟨0, { st with peer.conflictTimer := some 0 }, by decide +kernel⟩,
    ⟨32, { st with peer.entries := [⟨32, 0, true, none, some ⟨Report.empty, 0, true⟩, none⟩] }, by decide +kernel⟩,
    ⟨32, { st with peer.entries := [⟨32, 0, true, none, none, none⟩] }, by decide +kernel⟩,
    ⟨{ st with peer.conflictTimer := some 60000 }, by decide +kernel⟩,
    ⟨32, item 3 40 false, { claiming .deferred false [item 5 41 false, item 3 40 false] with
        peer.entries := [⟨32, 9, true, some ⟨.normal, .one, Four.all false, false, 30, []⟩, none, none⟩] },
      .inr (all4 (by decide +kernel)), by decide +kernel⟩⟩

/-- Witness of the two cases of the last clause of Obligations.PeerAgeing: the reckoned current falls, and it does not. -/
theorem witness_PeerAgeing_cases :
    (∃ (bay : Nat) (own : StartItem) (s : State),
      s.notSuperseded ∧ (∃ e ∈ s.peer.entries, e.bay = bay ∧ e.age ≠ 0) ∧ s.bud.own.state = .deferred ∧ s.bud.isoOpen = false ∧
      s.ownItem own ∧
      (State.reckoned { s with
          peer.entries := s.peer.entries.map (fun e => if e.bay = bay then { e with
          fresh := false, age := max e.age 15000 } else e) } < s.reckoned)) ∧
    (∃ (bay : Nat) (own : StartItem) (s : State),
      s.notSuperseded ∧ (∃ e ∈ s.peer.entries, e.bay = bay ∧ e.age ≠ 0) ∧ s.bud.own.state = .deferred ∧ s.bud.isoOpen = false ∧
      s.ownItem own ∧
      (s.reckoned ≤ State.reckoned { s with
          peer.entries := s.peer.entries.map (fun e => if e.bay = bay then { e with
          fresh := false, age := max e.age 15000 } else e) })) :=
  ⟨⟨32, item 3 40 false, { claiming .deferred false [item 5 41 false, item 3 40 false] with
        peer.entries := [⟨32, 9, true, some ⟨.normal, .one, Four.all false, false, 30, []⟩, none, none⟩] },
      .inr (all4 (by decide +kernel)), by decide +kernel⟩,
    ⟨32, item 3 40 false, { claiming .deferred false [item 5 41 false, item 3 40 false] with
        peer.entries := [⟨32, 16000, false, some ⟨.normal, .one, Four.all false, false, 30, []⟩, none, none⟩] },
      .inr (all4 (by decide +kernel)), by decide +kernel⟩⟩

/-- Witness of Obligations.GateMeasured. -/
theorem witness_GateMeasured :
    ∃ (pulses : Nat) (_vane : Raw) (ring : List Nat) (s : State),
      s.wx.gateTimer.isSome = true ∧ s.DemandsFollow ∧
      (ring = (if s.sup.presence.anemo = some true then (s.wx.ring ++ [min 600 ((s.wx.gateCount + pulses) * s.fields.k / 100)]).drop (s.wx.ring.length + 1 - 10) else s.wx.ring)) :=
  ⟨600, 1020, [600], { st with wx.gateTimer := some 0 },
      by decide +kernel, demandsFollow_of (by decide), by decide +kernel⟩

/-- Witness of Obligations.RainScanned, clause by clause. -/
theorem witness_RainScanned :
    (∃ (raw : Raw) (s : State),
      s.wx.rainTimer.isSome = true ∧ s.DemandsFollow ∧ (raw.toNat < 4 ∨ 1019 < raw.toNat)) ∧
    (∃ (raw : Raw) (wet : Bool) (s : State),
      s.wx.rainTimer.isSome = true ∧ s.DemandsFollow ∧ 4 ≤ raw.toNat ∧ raw.toNat ≤ 1019 ∧
      raw.toNat < s.fields.rainThreshold ∧ wet = (s.wx.rainFlag || decide (1 ≤ s.wx.wetRun))) ∧
    (∃ (raw : Raw) (n : Nat) (wet : Bool) (s : State),
      s.wx.rainTimer.isSome = true ∧ s.DemandsFollow ∧ 4 ≤ raw.toNat ∧ raw.toNat ≤ 1019 ∧
      s.fields.rainThreshold ≤ raw.toNat ∧ n = s.fields.rainHold * 60000 / s.fields.rainPeriod ∧
      wet = (s.wx.rainFlag && decide (s.wx.dryRun + 1 < n))) :=
  ⟨⟨1020, { st with wx.rainTimer := some 0 },
      by decide +kernel, demandsFollow_of (by decide), by decide +kernel⟩,
    ⟨511, true, { st with wx.rainTimer := some 0, wx.wetRun := 1 },
      by decide +kernel, demandsFollow_of (by decide), by decide +kernel, by decide +kernel, by decide +kernel,
      by decide +kernel⟩,
    ⟨512, 600, false, { st with
          wx.rainTimer := some 0
          wx.rainFlag := true
          wx.dryRun := 599 },
      by decide +kernel, demandsFollow_of (by decide), by decide +kernel, by decide +kernel, by decide +kernel,
      by decide +kernel, by decide +kernel⟩⟩

/-- Witness of Obligations.HeatSampled, clause by clause. -/
theorem witness_HeatSampled :
    (∃ (raw : Raw) (s : State),
      s.wx.heatTimer.isSome = true ∧ (raw.toNat < 4 ∨ 1019 < raw.toNat)) ∧
    (∃ (raw : Raw) (x : Int) (ring : List Int) (rate : Bool) (fixed rising : Nat) (s : State),
      s.wx.heatTimer.isSome = true ∧ 4 ≤ raw.toNat ∧ raw.toNat ≤ 1019 ∧
      x = max (-400) (min 1500 (250 + Int.tdiv (((raw.toNat : Int) - s.fields.cal) * 100) s.fields.sHeat)) ∧
      ring = (s.wx.heatRing ++ [x]).drop (s.wx.heatRing.length + 1 - 61) ∧
      (rate = decide (ring.length = 61 ∧ (s.fields.rr : Int) ≤ x - ring.headD 0)) ∧
      (fixed = (if (s.fields.th : Int) ≤ x then s.wx.fixedRun + 1 else 0)) ∧
      (rising = (if rate then s.wx.rateRun + 1 else 0)) ∧ s.wx.heatAlarm = false ∧ s.fire.heat = false) ∧
    (∃ (raw : Raw) (x : Int) (ring : List Int) (rate : Bool) (fixed rising calm : Nat) (s : State),
      s.wx.heatTimer.isSome = true ∧ 4 ≤ raw.toNat ∧ raw.toNat ≤ 1019 ∧
      x = max (-400) (min 1500 (250 + Int.tdiv (((raw.toNat : Int) - s.fields.cal) * 100) s.fields.sHeat)) ∧
      ring = (s.wx.heatRing ++ [x]).drop (s.wx.heatRing.length + 1 - 61) ∧
      (rate = decide (ring.length = 61 ∧ (s.fields.rr : Int) ≤ x - ring.headD 0)) ∧
      (fixed = (if (s.fields.th : Int) ≤ x then s.wx.fixedRun + 1 else 0)) ∧
      (rising = (if rate then s.wx.rateRun + 1 else 0)) ∧
      (calm = (if x < (s.fields.th : Int) - 50 ∧ rate = false then s.wx.clearRun + 1 else 0)) ∧ s.wx.heatAlarm = true ∧
      s.fire.heat = true) :=
  ⟨⟨3, { st with wx.heatTimer := some 0 }, by decide +kernel⟩,
    ⟨1019, 1225, [1225], false, 3, 0, { st with wx.heatTimer := some 0, wx.fixedRun := 2 }, by decide +kernel⟩,
    ⟨512, 250, [250], false, 0, 0, 300, { st with
          wx.heatTimer := some 0
          wx.clearRun := 299
          wx.heatAlarm := true
          fire.heat := true }, by decide +kernel⟩⟩

/-- Witness of Obligations.AtriumCombined, clause by clause. -/
theorem witness_AtriumCombined :
    (∃ (s : State),
      (∀ e ∈ s.reports, e.2.mean = none)) ∧
    (∃ (s : State) (e : Nat × Report) (m : Nat),
      e ∈ s.reports ∧ e.2.mean = some m ∧ (∀ x ∈ s.reports, ∀ n ∈ x.2.mean, n < m ∨ (n = m ∧ e.1 ≤ x.1))) ∧
    (∃ (s : State) (e : Nat × Report) (m : Nat),
      e ∈ s.reports ∧ e.2.mean = some m ∧ e.2.direction.isSome = true ∧
      (∀ x ∈ s.reports, x.2.direction.isSome = true → ∀ n ∈ x.2.mean, n < m ∨ (n = m ∧ (e.1 < x.1 ∨ e = x)))) ∧
    (∃ (s : State),
      (∀ e ∈ s.reports, e.2.mean.isSome = true → e.2.direction = none)) ∧
    (∃ (s : State),
      s.wx.atrium.stormTimer.isSome = true) :=
  ⟨⟨State.reset, by decide +kernel⟩,
    ⟨{ st with
          peer.entries := [⟨1, 0, true, none, some ⟨⟨some 60, some 600, none, none⟩, 0, true⟩, none⟩, ⟨2, 0, true, none,
            some ⟨⟨some 60, none, some 359, none⟩, 0, true⟩, none⟩] }, (1, ⟨some 60, some 600, none, none⟩), 60,
              by decide +kernel⟩,
    ⟨{ st with
          peer.entries := [⟨1, 0, true, none, some ⟨⟨some 60, some 600, none, none⟩, 0, true⟩, none⟩, ⟨2, 0, true, none,
            some ⟨⟨some 60, none, some 359, none⟩, 0, true⟩, none⟩] }, (2, ⟨some 60, none, some 359, none⟩), 60,
              by decide +kernel⟩,
    ⟨State.reset, by decide +kernel⟩,
    ⟨{ st with wx.atrium.storm := true, wx.atrium.stormTimer := some 0 }, by decide +kernel⟩⟩

/-- Witness of Obligations.WindwardResults, clause by clause. -/
theorem witness_WindwardResults :
    (∃ (_s : State) (r : Atrium) (_c : Chan),
      r.unknown = true) ∧
    (∃ (_s : State) (r : Atrium) (_c : Chan),
      r.unknown = false ∧ r.d = none) ∧
    (∃ (d a fold : Nat) (s : State) (r : Atrium) (c : Chan),
      r.unknown = false ∧ r.d = some d ∧ a = (((d : Int) - (s.chFields c).facing) % 360).toNat ∧
      (fold = (if 180 < a then 360 - a else a))) ∧
    (∃ (weff : Nat) (s : State) (r : Atrium) (c : Chan),
      r.unknown = false ∧ weff = max (s.windAfter r c).wn (r.w / 2)) :=
  ⟨⟨st, ⟨0, none, 0, false, true, false, none⟩, .one, by decide +kernel⟩,
    ⟨st, ⟨600, none, 0, false, false, false, none⟩, .one, by decide +kernel⟩,
    ⟨269, 269, 91, st, ⟨600, some 269, 0, false, false, false, none⟩, .four, by decide +kernel⟩,
    ⟨60, st, ⟨120, some 180, 0, false, false, false, none⟩, .one, by decide +kernel⟩⟩

/-- Witness of Obligations.FireLoop, clause by clause. -/
theorem witness_FireLoop :
    (∃ (raw : Raw) (cl : LoopClass) (s : State),
      s.detected = true ∧
      (cl = (if raw.toNat ≤ 102 then .short else if raw.toNat ≤ 409 then .alarm else if raw.toNat ≤ 716 then .normal else if raw.toNat ≤ 869 then .drift else .open))) ∧
    (∃ (cl : LoopClass) (s : State),
      s.fire.candidate = some cl ∧ s.fire.candidateTimer.isSome = true ∧ s.fire.loopClass = some cl) ∧
    (∃ (cl : LoopClass) (s : State),
      s.fire.candidate = some cl ∧ s.fire.candidateTimer.isSome = true ∧ s.fire.loopClass ≠ some cl ∧
      (cl ≠ .alarm ∨ s.fire.contact = true) ∧ s.faultsWf = true) ∧
    (∃ (s : State),
      s.fire.candidate = some .alarm ∧ s.fire.candidateTimer.isSome = true ∧ s.fire.loopClass ≠ some .alarm ∧
      s.fire.contact = false) ∧
    (∃ (s : State),
      s.fire.contactTimer.isSome = true ∧ s.fire.contact = true) :=
  ⟨⟨102, .short, st, by decide +kernel⟩,
    ⟨.normal, { st with
          fire.candidate := some .normal
          fire.candidateTimer := some 0
          fire.loopClass := some .normal }, by decide +kernel⟩,
    ⟨.normal, { st with
          fire.candidate := some .normal
          fire.candidateTimer := some 0
          fire.contact := true
          sup.faults := [6] }, by decide +kernel⟩,
    ⟨{ st with
          fire.candidate := some .alarm
          fire.candidateTimer := some 0 }, by decide +kernel⟩,
    ⟨{ st with fire.contactTimer := some 0, fire.contact := true }, by decide +kernel⟩⟩

/-- Witness of Obligations.FireTimers, clause by clause. -/
theorem witness_FireTimers :
    (∃ (n : Nat) (s : State),
      s.fire.generalTimer = some n ∧ n ≠ 30000) ∧
    (∃ (s : State),
      s.fire.generalTimer = some 30000) ∧
    (∃ (s : State),
      s.fire.pulseTimer.isSome = true ∧ s.localFire = true ∧ s.line.isolation = true ∧ s.starting = false) ∧
    (∃ (_c : Instr) (s : State),
      (s.fire.pulseTimer.isSome = true ↔ s.localFire = true ∧ s.line.isolation = true ∧ s.starting = false)) :=
  ⟨⟨0, { st with fire.generalTimer := some 0 }, by decide +kernel⟩,
    ⟨{ st with fire.generalTimer := some 30000 }, by decide +kernel⟩,
    ⟨{ st with fire.pulseTimer := some 0, fire.contact := true, line.isolation := true }, by decide +kernel⟩,
    ⟨.lineStuck, { st with line.span := some 55, line.spanLong := true, fire.contact := true }, by decide +kernel⟩⟩

/-- Witness of Obligations.FireActionDemand, clause by clause. -/
theorem witness_FireActionDemand :
    (∃ (s : State) (c : Chan),
      (s.chan c).fire.action = .freeze) ∧
    (∃ (s : State) (c : Chan),
      (s.chan c).fire.action ≠ .freeze) ∧
    (∃ (a : FireAction) (_s : State) (_c : Chan),
      a ≠ .freeze) :=
  ⟨⟨(stK { restChannel with fire := ⟨.freeze, some (.pos 500)⟩ }), .one, by decide +kernel⟩,
    ⟨(stK { restChannel with drv.count := 2500 }), .one, by decide +kernel⟩,
    ⟨.close, st, .one, by decide +kernel⟩⟩

/-- Witness of Obligations.Keys, clause by clause. -/
theorem witness_Keys :
    (∃ (o cl : Bool) (pos : KeyPos) (s : State),
      s.detected = true ∧ (pos = (if o then .open else if cl then .close else .auto))) ∧
    (∃ (o cl : Bool) (pos : KeyPos) (s : State),
      s.detected = true ∧ (pos = (if o = cl then .auto else if o then .open else .close))) ∧
    (∃ (pos : KeyPos) (s : State),
      s.dem.keyCandidate = some pos ∧ s.dem.keyTimer.isSome = true) ∧
    (∃ (s : State),
      s.fire.keyCandidate = some .auto ∧ s.fire.keyTimer.isSome = true) ∧
    (∃ (pos : KeyPos) (s : State),
      s.fire.keyCandidate = some pos ∧ s.fire.keyTimer.isSome = true ∧ pos ≠ .auto ∧
      ((∃ x ∈ s.fire.overrides, x.bay = s.bay) ∨ s.fire.overrides.length < 4)) ∧
    (∃ (pos : KeyPos) (x : OverrideOrigin) (s : State),
      s.fire.keyCandidate = some pos ∧ s.fire.keyTimer.isSome = true ∧ pos ≠ .auto ∧
      (∀ y ∈ s.fire.overrides, y.bay ≠ s.bay) ∧ s.fire.overrides.length = 4 ∧ x ∈ s.fire.overrides ∧
      (∀ y ∈ s.fire.overrides, y = x ∨ y.age.getD 0 < x.age.getD 0 ∨ (y.age.getD 0 = x.age.getD 0 ∧ y.bay < x.bay))) :=
  ⟨⟨true, true, .open, st, by decide +kernel⟩,
    ⟨true, true, .auto, st, by decide +kernel⟩,
    ⟨.close, { st with dem.keyCandidate := some .close, dem.keyTimer := some 0 }, by decide +kernel⟩,
    ⟨{ st with
          fire.keyCandidate := some .auto
          fire.keyTimer := some 0
          fire.keyTaken := .open }, by decide +kernel⟩,
    ⟨.open, { st with
          fire.keyCandidate := some .open
          fire.keyTimer := some 0
          fire.overrides := [⟨8, true, some 5⟩, ⟨9, false, some 5⟩, ⟨7, true, some 4⟩] }, by decide +kernel⟩,
    ⟨.close, ⟨9, false, some 5⟩, { st with
          fire.keyCandidate := some .close
          fire.keyTimer := some 0
          fire.overrides := [⟨8, true, some 5⟩, ⟨9, false, some 5⟩, ⟨7, true, some 4⟩, ⟨6, true, some 0⟩] }, by decide +kernel⟩⟩

/-- Witness of Obligations.PostingAtRest, clause by clause. -/
theorem witness_PostingAtRest :
    (∃ (s : State) (_c : Chan),
      s.supplyVeto = false) ∧
    (∃ (s : State) (_c : Chan),
      s.supplyVeto = true) ∧
    (∃ (src : Source) (t : Nat) (s : State) (c : Chan),
      s.detected = true ∧ (s.chan c).state = .idle ∧ s.winner c ≠ (s.chan c).dem.win ∧ s.winner c = some (src, .pos t) ∧
      ((s.chan c).dem.refDue = false ∨ src ∈ [Source.override, .fire, .weather] ∨ (s.chan c).lim.veto = true)) ∧
    (∃ (s : State) (c : Chan),
      s.detected = true ∧ ((s.chan c).state = .idle ∨ (s.chan c).state = .unreferenced) ∧ s.winner c ≠ (s.chan c).dem.win ∧
      ((s.winner c = none ∧ (s.chan c).dem.refDue = false) ∨ s.winner c = some (.fire, .hold))) ∧
    (∃ (s : State) (c : Chan),
      s.detected = true ∧ (s.chan c).state = .idle ∧ s.winner c ≠ (s.chan c).dem.win ∧ (s.chan c).dem.refDue = true ∧
      (s.chan c).lim.veto = false ∧ s.supplyVeto = false ∧
      (∀ w ∈ s.winner c, w.1 = .localKey ∨ w.1 = .ventilate ∨ w.1 = .jog)) ∧
    (∃ (src : Source) (t : Nat) (s : State) (c : Chan),
      s.detected = true ∧ (s.chan c).state = .unreferenced ∧ s.winner c ≠ (s.chan c).dem.win ∧
      s.winner c = some (src, .pos t)) ∧
    (∃ (s : State) (c : Chan),
      ((s.chan c).state = .absent ∨ s.winner c = (s.chan c).dem.win)) ∧
    (∃ (s : State) (c : Chan),
      (s.chan c).state ≠ .absent ∧ s.detected = false) :=
  ⟨⟨st, .one, by decide +kernel⟩,
    ⟨{ st with sup.high := true }, .one, by decide +kernel⟩,
    ⟨.localKey, 20, (stK { restChannel with src.localKey := some 20 }), .one, by decide +kernel⟩,
    ⟨(stK { restChannel with dem.win := some (.localKey, .pos 1000) }), .one, by decide +kernel⟩,
    ⟨(stK { restChannel with src.localKey := some 0, dem.refDue := true }), .one, by decide +kernel⟩,
    ⟨.ventilate, 500, (stK { restChannel with
          state := .unreferenced
          drv.referenced := false
          src.ventilate := some 500 }), .one, by decide +kernel⟩,
    ⟨st, .one, by decide +kernel⟩,
    ⟨State.reset, .one, by decide +kernel⟩⟩

/-- Witness of Obligations.PostingDriven, clause by clause. -/
theorem witness_PostingDriven :
    (∃ (src : Source) (t : Nat) (m : Movement) (s : State) (c : Chan),
      s.detected = true ∧ (s.chan c).state = .waiting ∧ (s.chan c).drv.referenced = true ∧ (s.chan c).dem.movement = some m ∧
      (m.kind = .ordinary ∨ src = .override ∨ src = .fire) ∧ s.winner c ≠ (s.chan c).dem.win ∧ s.winner c = some (src, .pos t) ∧
      s.callsMovement c t = true) ∧
    (∃ (m : Movement) (s : State) (c : Chan),
      s.detected = true ∧ (s.chan c).state = .waiting ∧ (s.chan c).drv.referenced = true ∧ (s.chan c).dem.movement = some m ∧
      ((m.kind = .ordinary ∧ (s.chan c).dem.refDue = false) ∨ (∃ w ∈ s.winner c, w.1 = .override ∨ w.1 = .fire)) ∧
      s.winner c ≠ (s.chan c).dem.win ∧ (∀ w ∈ s.winner c, ∀ t ≤ 1000, w.2 = .pos t → s.callsMovement c t = false) ∧
      (∀ w ∈ s.winner c, w.2.wf = true)) ∧
    (∃ (m : Movement) (s : State) (c : Chan),
      s.detected = true ∧ (s.chan c).state = .waiting ∧ (s.chan c).drv.referenced = true ∧ (s.chan c).dem.movement = some m ∧
      m.kind = .reference ∧ s.winner c ≠ (s.chan c).dem.win ∧ (∀ w ∈ s.winner c, w.1 ≠ .override ∧ w.1 ≠ .fire)) ∧
    (∃ (src : Source) (t : Nat) (m : Movement) (s : State) (c : Chan),
      s.detected = true ∧ (s.chan c).state = .waiting ∧ (s.chan c).drv.referenced = false ∧ (s.chan c).dem.movement = some m ∧
      s.winner c ≠ (s.chan c).dem.win ∧ s.winner c = some (src, .pos t)) ∧
    (∃ (s : State) (c : Chan),
      s.detected = true ∧ (s.chan c).state = .waiting ∧ (s.chan c).drv.referenced = false ∧
      (s.chan c).dem.movement.isSome = true ∧ s.winner c ≠ (s.chan c).dem.win ∧
      (s.winner c = none ∨ s.winner c = some (.fire, .hold))) ∧
    (∃ (src : Source) (t : Nat) (s : State) (c : Chan),
      s.detected = true ∧ (s.chan c).state = .running ∧ s.winner c ≠ (s.chan c).dem.win ∧ s.winner c = some (src, .pos t) ∧
      (((s.chan c).drv.dir = some .opening ∧ (t = 1000 ∨ ((s.chan c).drv.referenced = true ∧ (s.chan c).drv.count < (t *
        s.stroke c + 999) / 1000))) ∨ ((s.chan c).drv.dir = some .closing ∧ (t = 0 ∨ t * s.stroke c / 1000 < (s.chan
        c).drv.count)))) ∧
    (∃ (src : Source) (t : Nat) (s : State) (c : Chan),
      s.detected = true ∧ (s.chan c).state = .running ∧ s.winner c ≠ (s.chan c).dem.win ∧ s.winner c = some (src, .pos t) ∧
      (((s.chan c).drv.dir = some .opening ∧ t ≠ 1000 ∧ ((s.chan c).drv.referenced = true → (t * s.stroke c + 999) / 1000 ≤
        (s.chan c).drv.count)) ∨ ((s.chan c).drv.dir = some .closing ∧ t ≠ 0 ∧ (s.chan c).drv.count ≤ t * s.stroke c / 1000)) ∧
      (((s.chan c).drv.referenced = false ∧ (s.chan c).drv.dir = some .opening) ∨ s.strokeKnown c = false ∨ t + 20 ≤ s.position
        c ∨ s.position c + 20 ≤ t)) ∧
    (∃ (src : Source) (t : Nat) (s : State) (c : Chan),
      s.detected = true ∧ (s.chan c).state = .running ∧ s.winner c ≠ (s.chan c).dem.win ∧ s.winner c = some (src, .pos t) ∧
      (s.chan c).drv.referenced = true ∧ s.strokeKnown c = true ∧
      (((s.chan c).drv.dir = some .opening ∧ t ≠ 1000 ∧ (t * s.stroke c + 999) / 1000 ≤ (s.chan c).drv.count) ∨ ((s.chan
        c).drv.dir = some .closing ∧ t ≠ 0 ∧ (s.chan c).drv.count ≤ t * s.stroke c / 1000)) ∧ s.position c < t + 20 ∧
      t < s.position c + 20 ∧ (s.chan c).drv.jog = none ∧ (s.chan c).dem.refDue = false ∧ (s.chan c).dem.moveCount ≠ 199) ∧
    (∃ (s : State) (c : Chan),
      s.detected = true ∧ (s.chan c).state = .running ∧ s.winner c ≠ (s.chan c).dem.win ∧
      (s.winner c = none ∨ s.winner c = some (.fire, .hold)) ∧ (s.chan c).dem.refDue = false) ∧
    (∃ (s : State) (c : Chan),
      s.detected = true ∧
      ((s.chan c).state = .reversing ∨ ((s.chan c).state = .referencing ∧ (∀ w ∈ s.winner c, w.1 ≠ .override ∧ w.1 ≠ .fire))) ∧
      s.winner c ≠ (s.chan c).dem.win) ∧
    (∃ (src source : Source) (m : Movement) (s : State) (c : Chan),
      s.detected = true ∧ (s.chan c).state = .referencing ∧ (s.chan c).dem.movement = some m ∧ m.formedFor = some source ∧
      (source = .override ∨ source = .fire) ∧ s.winner c ≠ (s.chan c).dem.win ∧ s.winner c = some (src, .pos 0) ∧
      (src = .override ∨ src = .fire)) ∧
    (∃ (src : Source) (t : Nat) (s : State) (c : Chan),
      s.detected = true ∧ (s.chan c).state = .referencing ∧ s.winner c ≠ (s.chan c).dem.win ∧ s.winner c = some (src, .pos t) ∧
      (src = .override ∨ src = .fire) ∧
      (((s.chan c).drv.referenced = true ∧ s.strokeKnown c = true ∧ s.position c + 20 ≤ t) ∨ ((s.chan c).drv.referenced = true ∧
        s.strokeKnown c = false ∧ t ≠ 0) ∨ ((s.chan c).drv.referenced = false ∧ t = 1000))) ∧
    (∃ (src : Source) (t : Nat) (s : State) (c : Chan),
      s.detected = true ∧ (s.chan c).state = .referencing ∧ s.winner c ≠ (s.chan c).dem.win ∧ s.winner c = some (src, .pos t) ∧
      (src = .override ∨ src = .fire) ∧
      (t ≠ 0 ∨ (∀ m ∈ (s.chan c).dem.movement, ∀ x ∈ m.formedFor, x ≠ .override ∧ x ≠ .fire)) ∧
      (((s.chan c).drv.referenced = true ∧ s.strokeKnown c = true ∧ t ≤ s.position c ∧
        t * s.stroke c / 1000 < (s.chan c).drv.count) ∨ t = 0 ∨ ((s.chan c).drv.referenced =
        false ∧ t ≠ 1000))) ∧
    (∃ (src : Source) (p : Target) (s : State) (c : Chan),
      s.detected = true ∧ (s.chan c).state = .referencing ∧ s.winner c ≠ (s.chan c).dem.win ∧ s.winner c = some (src, p) ∧
      (src = .override ∨ src = .fire) ∧
      (p = .hold ∨ ((s.chan c).drv.referenced = true ∧ s.strokeKnown c = true ∧ ∃ t ≤ 1000, p = .pos t ∧ t ≠ 0 ∧
        t < s.position c + 20 ∧ (s.chan c).drv.count ≤ t * s.stroke c / 1000))) ∧
    (∃ (s : State) (c : Chan),
      s.detected = true ∧ (s.chan c).state = .faulted ∧ s.winner c ≠ (s.chan c).dem.win ∧
      (s.winner c = none ∨ s.winner c = some (.fire, .hold))) ∧
    (∃ (src : Source) (t : Nat) (s : State) (c : Chan),
      s.detected = true ∧ (s.chan c).state = .faulted ∧ s.winner c ≠ (s.chan c).dem.win ∧ s.winner c = some (src, .pos t)) :=
  ⟨⟨.fire, 1000, ⟨.ordinary, 0, some .weather⟩, (stK { restChannel with
        state := .waiting, dem.movement := some ⟨.ordinary, 0, some .weather⟩, src.fire := some (.pos 1000) }), .one,
      by decide +kernel⟩,
    ⟨⟨.ordinary, 0, some .weather⟩, (stK { restChannel with
        state := .waiting, dem.movement := some ⟨.ordinary, 0, some .weather⟩, dem.win := some (.weather, .pos 0) }), .one,
      by decide +kernel⟩,
    ⟨⟨.reference, 0, some .localKey⟩, (stK { restChannel with
        state := .waiting, dem.movement := some ⟨.reference, 0, some .localKey⟩, src.ventilate := some 500 }), .one,
      by decide +kernel⟩,
    ⟨.localKey, 0, ⟨.ordinary, 0, some .weather⟩, (stK { restChannel with
        state := .waiting, dem.movement := some ⟨.ordinary, 0, some .weather⟩, src.localKey := some 0, drv.referenced := false
          }), .one,
      by decide +kernel⟩,
    ⟨(stK { restChannel with
        state := .waiting, dem.movement := some ⟨.ordinary, 0, some .weather⟩, src.fire := some .hold, drv.referenced := false
          }), .one,
      by decide +kernel⟩,
    ⟨.localKey, 500, (stK { driving .opening 2499 with
        dem.movement := some ⟨.ordinary, 1000, some .fire⟩, src.localKey := some 500 }), .one,
      by decide +kernel⟩,
    ⟨.localKey, 500, (stK { driving .opening 2600 with
        dem.movement := some ⟨.ordinary, 1000, some .fire⟩, src.localKey := some 500 }), .one,
      by decide +kernel⟩,
    ⟨.localKey, 500, (stK { driving .opening 2599 with
        dem.movement := some ⟨.ordinary, 1000, some .fire⟩, src.localKey := some 500 }), .one,
      by decide +kernel⟩,
    ⟨(stK { driving .closing 2500 with
        dem.win := some (.weather, .pos 0), dem.movement := some ⟨.ordinary, 0, some .weather⟩ }), .one,
      by decide +kernel⟩,
    ⟨(stK { restChannel with state := .reversing, drv.reversalTimer := some 100, src.localKey := some 1000 }), .one,
      by decide +kernel⟩,
    ⟨.fire, .override, ⟨.reference, 0, some .override⟩, (stK { referencing with
        dem.movement := some ⟨.reference, 0, some .override⟩, src.fire := some (.pos 0) }), .one,
      by decide +kernel⟩,
    ⟨.fire, 1000, (stK { referencing with src.fire := some (.pos 1000) }), .one, by decide +kernel⟩,
    ⟨.fire, 979, (stK { referencing with src.fire := some (.pos 979) }), .one, by decide +kernel⟩,
    ⟨.fire, .pos 999, (stK { referencing with src.fire := some (.pos 999) }), .one, by decide +kernel⟩,
    ⟨(stK { restChannel with state := .faulted, dem.win := some (.fire, .pos 1000), drv.retryTimer := some 5000 }), .one,
      by decide +kernel⟩,
    ⟨.fire, 0, (stK { restChannel with state := .faulted, src.fire := some (.pos 0) }), .one, by decide +kernel⟩⟩

/-- Witness of further cases of Obligations.PostingDriven: a target ahead and one behind on a closing drive, and the aborts of a
reference run that is not referenced, toward the closed end and for a hold; the abort for 1000 with the count at S and for a target whose
stop point is the count; and the run formed for OVERRIDE whose winner had fallen to LOCAL. -/
theorem witness_PostingDriven_driven :
    (∃ (src : Source) (t : Nat) (s : State) (c : Chan),
      s.detected = true ∧ (s.chan c).state = .running ∧ s.winner c ≠ (s.chan c).dem.win ∧ s.winner c = some (src, .pos t) ∧
      (((s.chan c).drv.dir = some .opening ∧ (t = 1000 ∨ ((s.chan c).drv.referenced = true ∧ (s.chan c).drv.count < (t *
        s.stroke c + 999) / 1000))) ∨ ((s.chan c).drv.dir = some .closing ∧ (t = 0 ∨ t * s.stroke c / 1000 < (s.chan
        c).drv.count))) ∧ (s.chan c).drv.dir = some .closing) ∧
    (∃ (src : Source) (t : Nat) (s : State) (c : Chan),
      s.detected = true ∧ (s.chan c).state = .running ∧ s.winner c ≠ (s.chan c).dem.win ∧ s.winner c = some (src, .pos t) ∧
      (((s.chan c).drv.dir = some .opening ∧ t ≠ 1000 ∧ ((s.chan c).drv.referenced = true → (t * s.stroke c + 999) / 1000 ≤
        (s.chan c).drv.count)) ∨ ((s.chan c).drv.dir = some .closing ∧ t ≠ 0 ∧ (s.chan c).drv.count ≤ t * s.stroke c / 1000)) ∧
      (((s.chan c).drv.referenced = false ∧ (s.chan c).drv.dir = some .opening) ∨ s.strokeKnown c = false ∨ t + 20 ≤ s.position
        c ∨ s.position c + 20 ≤ t) ∧ (s.chan c).drv.dir = some .closing) ∧
    (∃ (src : Source) (t : Nat) (s : State) (c : Chan),
      s.detected = true ∧ (s.chan c).state = .referencing ∧ s.winner c ≠ (s.chan c).dem.win ∧ s.winner c = some (src, .pos t) ∧
      (src = .override ∨ src = .fire) ∧
      (((s.chan c).drv.referenced = true ∧ s.strokeKnown c = true ∧ s.position c + 20 ≤ t) ∨ ((s.chan c).drv.referenced = true ∧
        s.strokeKnown c = false ∧ t ≠ 0) ∨ ((s.chan c).drv.referenced = false ∧ t = 1000)) ∧ (s.chan c).drv.referenced = false) ∧
    (∃ (src : Source) (t : Nat) (s : State) (c : Chan),
      s.detected = true ∧ (s.chan c).state = .referencing ∧ s.winner c ≠ (s.chan c).dem.win ∧ s.winner c = some (src, .pos t) ∧
      (src = .override ∨ src = .fire) ∧
      (t ≠ 0 ∨ (∀ m ∈ (s.chan c).dem.movement, ∀ x ∈ m.formedFor, x ≠ .override ∧ x ≠ .fire)) ∧
      (((s.chan c).drv.referenced = true ∧ s.strokeKnown c = true ∧ t ≤ s.position c ∧
        t * s.stroke c / 1000 < (s.chan c).drv.count) ∨ t = 0 ∨ ((s.chan c).drv.referenced =
        false ∧ t ≠ 1000)) ∧ t = 0) ∧
    (∃ (src : Source) (p : Target) (s : State) (c : Chan),
      s.detected = true ∧ (s.chan c).state = .referencing ∧ s.winner c ≠ (s.chan c).dem.win ∧ s.winner c = some (src, p) ∧
      (src = .override ∨ src = .fire) ∧
      (p = .hold ∨ ((s.chan c).drv.referenced = true ∧ s.strokeKnown c = true ∧ ∃ t ≤ 1000, p = .pos t ∧ t ≠ 0 ∧
        t < s.position c + 20 ∧ (s.chan c).drv.count ≤ t * s.stroke c / 1000)) ∧ p = .hold) ∧
    (∃ (src : Source) (p : Target) (s : State) (c : Chan),
      s.detected = true ∧ (s.chan c).state = .referencing ∧ s.winner c ≠ (s.chan c).dem.win ∧ s.winner c = some (src, p) ∧
      (src = .override ∨ src = .fire) ∧
      (p = .hold ∨ ((s.chan c).drv.referenced = true ∧ s.strokeKnown c = true ∧ ∃ t ≤ 1000, p = .pos t ∧ t ≠ 0 ∧
        t < s.position c + 20 ∧ (s.chan c).drv.count ≤ t * s.stroke c / 1000)) ∧ p = .pos 1000 ∧ s.position c = 1000) ∧
    (∃ (src : Source) (p : Target) (s : State) (c : Chan),
      s.detected = true ∧ (s.chan c).state = .referencing ∧ s.winner c ≠ (s.chan c).dem.win ∧ s.winner c = some (src, p) ∧
      (src = .override ∨ src = .fire) ∧
      (p = .hold ∨ ((s.chan c).drv.referenced = true ∧ s.strokeKnown c = true ∧ ∃ t ≤ 1000, p = .pos t ∧ t ≠ 0 ∧
        t < s.position c + 20 ∧ (s.chan c).drv.count ≤ t * s.stroke c / 1000)) ∧ p = .pos 980 ∧ s.position c = 980) ∧
    (∃ (src source : Source) (m : Movement) (s : State) (c : Chan),
      s.detected = true ∧ (s.chan c).state = .referencing ∧ (s.chan c).dem.movement = some m ∧ m.formedFor = some source ∧
      (source = .override ∨ source = .fire) ∧ s.winner c ≠ (s.chan c).dem.win ∧ s.winner c = some (src, .pos 0) ∧
      (src = .override ∨ src = .fire) ∧ (s.chan c).dem.win = some (.localKey, .pos 500)) :=
  ⟨⟨.localKey, 0, (stK { driving .closing 300 with
        dem.movement := some ⟨.ordinary, 50, some .fire⟩, src.localKey := some 0 }), .one,
      by decide +kernel⟩,
    ⟨.override, 1000, (stK { driving .closing 300 with
        drv.referenced := false, dem.movement := some ⟨.ordinary, 0, some .weather⟩, src.override := some 1000 }), .one,
      by decide +kernel⟩,
    ⟨.override, 1000, (stK { referencing with drv.referenced := false, src.override := some 1000 }), .one,
      by decide +kernel⟩,
    ⟨.override, 0, (stK { referencing with drv.referenced := false, src.override := some 0 }), .one, by decide +kernel⟩,
    ⟨.fire, .hold, (stK { referencing with src.fire := some .hold }), .one, by decide +kernel⟩,
    ⟨.fire, .pos 1000, (stK { referencing with drv.count := 5000, src.fire := some (.pos 1000) }), .one,
      by decide +kernel, by decide +kernel, by decide +kernel, by decide +kernel, .inr rfl,
      .inr ⟨by decide +kernel, by decide +kernel, 1000, by decide, rfl, by decide, by decide +kernel, by decide +kernel⟩,
      rfl, by decide +kernel⟩,
    ⟨.fire, .pos 980, (stK { referencing with src.fire := some (.pos 980) }), .one,
      by decide +kernel, by decide +kernel, by decide +kernel, by decide +kernel, .inr rfl,
      .inr ⟨by decide +kernel, by decide +kernel, 980, by decide, rfl, by decide, by decide +kernel, by decide +kernel⟩,
      rfl, by decide +kernel⟩,
    ⟨.fire, .override, ⟨.reference, 0, some .override⟩, (stK { referencing with
        drv.referenced := false, dem.movement := some ⟨.reference, 0, some .override⟩, dem.pending := some (.pos 500)
        dem.win := some (.localKey, .pos 500), src.fire := some (.pos 0) }), .one,
      by decide +kernel⟩⟩

/-- Witness of the five cases of the fourth clause of Obligations.PostingDriven, a new winner of a waiting channel that is not
referenced. -/
theorem witness_PostingDriven_waiting :
    (∃ (src : Source) (t : Nat) (m : Movement) (s : State) (c : Chan),
      s.detected = true ∧ (s.chan c).state = .waiting ∧ (s.chan c).drv.referenced = false ∧ (s.chan c).dem.movement = some m ∧
      s.winner c ≠ (s.chan c).dem.win ∧ s.winner c = some (src, .pos t) ∧ m.kind = .ordinary ∧ t = m.target) ∧
    (∃ (src : Source) (t : Nat) (m : Movement) (s : State) (c : Chan),
      s.detected = true ∧ (s.chan c).state = .waiting ∧ (s.chan c).drv.referenced = false ∧ (s.chan c).dem.movement = some m ∧
      s.winner c ≠ (s.chan c).dem.win ∧ s.winner c = some (src, .pos t) ∧ m.kind = .ordinary ∧ t ≠ m.target ∧ t = 0) ∧
    (∃ (src : Source) (t : Nat) (m : Movement) (s : State) (c : Chan),
      s.detected = true ∧ (s.chan c).state = .waiting ∧ (s.chan c).drv.referenced = false ∧ (s.chan c).dem.movement = some m ∧
      s.winner c ≠ (s.chan c).dem.win ∧ s.winner c = some (src, .pos t) ∧ t ≠ 0 ∧ src ≠ .override ∧ src ≠ .fire) ∧
    (∃ (src : Source) (t : Nat) (m : Movement) (s : State) (c : Chan),
      s.detected = true ∧ (s.chan c).state = .waiting ∧ (s.chan c).drv.referenced = false ∧ (s.chan c).dem.movement = some m ∧
      s.winner c ≠ (s.chan c).dem.win ∧ s.winner c = some (src, .pos t) ∧ m.kind = .reference ∧ t = 1000 ∧ src = .override ∧
      (s.chan c).drv.restEnd ≠ some .openEnd) ∧
    (∃ (src : Source) (t : Nat) (m : Movement) (s : State) (c : Chan),
      s.detected = true ∧ (s.chan c).state = .waiting ∧ (s.chan c).drv.referenced = false ∧ (s.chan c).dem.movement = some m ∧
      s.winner c ≠ (s.chan c).dem.win ∧ s.winner c = some (src, .pos t) ∧ t ≠ 0 ∧ t ≠ 1000 ∧ src = .fire) :=
  ⟨⟨.localKey, 0, ⟨.ordinary, 0, some .weather⟩, (stK { restChannel with
        state := .waiting, dem.movement := some ⟨.ordinary, 0, some .weather⟩, src.localKey := some 0, drv.referenced := false
          }), .one,
      by decide +kernel⟩,
    ⟨.localKey, 0, ⟨.ordinary, 1000, some .fire⟩, (stK { restChannel with
        state := .waiting, dem.movement := some ⟨.ordinary, 1000, some .fire⟩, src.localKey := some 0, drv.referenced := false
          }), .one,
      by decide +kernel⟩,
    ⟨.ventilate, 500, ⟨.reference, 0, some .localKey⟩, (stK { restChannel with
        state := .waiting, dem.movement := some ⟨.reference, 0, some .localKey⟩, src.ventilate := some 500, drv.referenced :=
          false }), .one,
      by decide +kernel⟩,
    ⟨.override, 1000, ⟨.reference, 0, some .localKey⟩, (stK { restChannel with
        state := .waiting, dem.movement := some ⟨.reference, 0, some .localKey⟩, src.override := some 1000, drv.referenced :=
          false }), .one,
      by decide +kernel⟩,
    ⟨.fire, 430, ⟨.reference, 0, some .localKey⟩, (stK { restChannel with
        state := .waiting, dem.movement := some ⟨.reference, 0, some .localKey⟩, src.fire := some (.pos 430), drv.referenced :=
          false }), .one,
      by decide +kernel⟩⟩

/-- Witness of Obligations.ClaimSelection, clause by clause. -/
theorem witness_ClaimSelection :
    (∃ (order : List Chan) (allowance : Nat) (s : State),
      order = Quad.all.filter s.waitsHigh ++ Quad.all.filter (fun c => decide ((s.chan c).state = .waiting) && !s.waitsHigh c) ∧
      (allowance = (if Quad.all.any s.waitsHigh then s.fields.aFire else s.fields.aStart))) ∧
    (∃ (s : State),
      (∃ c, (s.chan c).state = .waiting) ∧ (s.sup.mode = .normal ∨ (s.sup.mode = .service ∧ s.line.isolation = false)) ∧
      s.supplyVeto = false ∧ s.bud.own.state = .none) ∧
    (∃ (s : State),
      (s.sup.mode = .starting ∨ s.sup.mode = .isolated ∨ (s.sup.mode = .service ∧ s.line.isolation = true) ∨ s.supplyVeto = true
        ∨ (∀ c, (s.chan c).state ≠ .waiting) ∨ s.bud.own.state ≠ .none)) ∧
    (∃ (s : State),
      s.bud.own.state ≠ .none) ∧
    (∃ (c : Chan) (s : State),
      s.bud.own.state ≠ .none ∧ s.bud.own.channels.get c = true) ∧
    (∃ (c : Chan) (s : State),
      (s.bud.own.state = .none ∨ s.bud.own.channels.get c = false)) :=
  ⟨⟨[.one], 80, stK toClose, by decide +kernel⟩,
    ⟨stK toClose, ⟨.one, by decide⟩, by decide +kernel⟩,
    ⟨{ st with sup.low := true }, .inr (.inr (.inr (.inl (by decide))))⟩,
    ⟨claiming .queued false [], by decide +kernel⟩,
    ⟨.one, claiming .queued false [], by decide +kernel⟩,
    ⟨.two, claiming .queued false [], by decide +kernel⟩⟩

/-- Witness of the cases of Obligations.ClaimSelection: a claim dropped while its CLAIM waits, and while it is in flight; and a
channel that leaves a claim of two. -/
theorem witness_ClaimSelection_cases :
    (∃ (s : State),
      s.bud.own.state ≠ .none ∧ s.bud.own.state = .queued ∧ s.line.flight = none ∧ (∃ e ∈ s.line.queue, e.notice.kind = .claim)) ∧
    (∃ (s : State),
      s.bud.own.state ≠ .none ∧ (∃ f ∈ s.line.flight, f.content.kind = .claim)) ∧
    (∃ (c : Chan) (s : State),
      s.bud.own.state ≠ .none ∧ s.bud.own.channels.get c = true ∧ s.bud.own.channels.set c false ≠ Four.all false) :=
  ⟨⟨{ claiming .queued false [] with line.queue := [⟨.claim ⟨true, false, false, false⟩ 40 false, 0, false⟩] },
      by decide +kernel⟩,
    ⟨{ claiming .queued false [] with
        line.queue := [⟨.claim ⟨true, false, false, false⟩ 40 false, 0, false⟩], line.flight := some ⟨.claim ⟨true, false,
          false, false⟩ 40 false, [], false⟩ },
      by decide +kernel⟩,
    ⟨.one, { claiming .queued false [] with bud.own := ⟨.queued, ⟨true, true, false, false⟩, false, 80⟩ },
      by decide +kernel⟩⟩

/-- Witness of Obligations.ClaimDecided, clause by clause. -/
theorem witness_ClaimDecided :
    (∃ (own : StartItem) (s : State),
      s.bud.own.state = .settling ∧ s.bud.settleTimer.isSome = true ∧ s.bud.isoOpen = false ∧ own ∈ s.bud.items ∧
      own.bay = s.bay ∧ distinctBy (·.bay) s.bud.items = true ∧ s.bud.own.fire = false ∧ (∀ i ∈ s.bud.items, i.fire = false) ∧
      ((s.bud.items.takeWhile (fun i => i.bay != s.bay)).map (·.inrush)).sum + own.inrush ≤ s.fields.aStart ∧
      s.reckoned + ((Quad.all.filter s.bud.own.channels.get).map (fun c => (s.chFields c).run)).sum ≤ s.fields.aRun) ∧
    (∃ (own : StartItem) (s : State),
      s.bud.own.state = .settling ∧ s.bud.settleTimer.isSome = true ∧ s.bud.isoOpen = false ∧ own ∈ s.bud.items ∧
      own.bay = s.bay ∧ distinctBy (·.bay) s.bud.items = true ∧ s.bud.own.fire = true ∧
      (((s.bud.items.takeWhile (fun i => i.bay != s.bay)).filter (·.fire)).map (·.inrush)).sum + own.inrush ≤ s.fields.aFire) ∧
    (∃ (own : StartItem) (s : State),
      (∀ c, s.waitsHigh c = false) ∧ s.bud.own.state = .settling ∧ s.bud.settleTimer.isSome = true ∧ own ∈ s.bud.items ∧
      own.bay = s.bay ∧ distinctBy (·.bay) s.bud.items = true ∧ s.bud.own.fire = false ∧
      ((∃ i ∈ s.bud.items, i.fire = true) ∨ s.fields.aStart < ((s.bud.items.takeWhile (fun i => i.bay != s.bay)).map
        (·.inrush)).sum + own.inrush ∨ s.fields.aRun < s.reckoned + ((Quad.all.filter s.bud.own.channels.get).map (fun c =>
        (s.chFields c).run)).sum)) ∧
    (∃ (own : StartItem) (s : State),
      s.bud.own.state = .settling ∧ s.bud.settleTimer.isSome = true ∧ own ∈ s.bud.items ∧ own.bay = s.bay ∧
      distinctBy (·.bay) s.bud.items = true ∧ s.bud.own.fire = true ∧
      s.fields.aFire < (((s.bud.items.takeWhile (fun i => i.bay != s.bay)).filter (·.fire)).map (·.inrush)).sum + own.inrush) ∧
    (∃ (bay : Nat) (s : State),
      (∃ i ∈ s.bud.items, i.bay = bay ∧ i.age ≠ 0) ∧ bay ≠ s.bay ∧ s.bud.own.state ≠ .deferred) ∧
    (∃ (i own : StartItem) (s : State),
      s.notSuperseded ∧ s.bud.own.state = .deferred ∧ s.bud.isoOpen = false ∧ i ∈ s.bud.items ∧ i.age ≠ 0 ∧ i.bay ≠ s.bay ∧
      s.ownItem own) ∧
    (∃ (own : StartItem) (s : State),
      (∃ c, (s.chan c).state = .waiting) ∧ (s.bud.own.state = .settling ∨ s.bud.own.state = .deferred) ∧ own ∈ s.bud.items ∧
      own.bay = s.bay ∧ own.age ≠ 0 ∧ s.bud.isoOpen = false ∧ s.sup.mode = .normal ∧ s.supplyVeto = false) ∧
    (∃ (bay : Nat) (s : State),
      (∀ i ∈ s.bud.items, i.bay = bay → i.age = 0)) :=
  ⟨⟨item 3 40 false, claiming .settling false [item 5 40 false, item 3 40 false], by decide +kernel⟩,
    ⟨item 3 40 true, claiming .settling true [item 5 120 true, item 3 40 true], by decide +kernel⟩,
    ⟨item 3 40 false, claiming .settling false [item 5 41 false, item 3 40 false],
      all4 (by decide +kernel), by decide +kernel⟩,
    ⟨item 3 40 true, claiming .settling true [item 5 121 true, item 3 40 true], by decide +kernel⟩,
    ⟨5, { st with bud.items := [aged (item 5 41 false)] }, by decide +kernel⟩,
    ⟨aged (item 5 41 false), item 3 40 false, claiming .deferred false [aged (item 5 41 false), item 3 40 false],
      .inr (all4 (by decide +kernel)), by decide +kernel⟩,
    ⟨aged (item 3 40 false), claiming .deferred false [aged (item 3 40 false)], ⟨.one, by decide⟩, by decide +kernel⟩,
    ⟨5, { st with bud.items := [item 5 41 false, aged (item 6 41 false)] }, by decide +kernel⟩⟩

/-- Witness of the cases of the sixth clause of Obligations.ClaimDecided: an item that stood ahead, after which the claim passes;
one that was fire-flagged, after which it does not; and one that bears on nothing. -/
theorem witness_ClaimDecided_cases :
    (∃ (i own : StartItem) (s : State),
      s.notSuperseded ∧ s.bud.own.state = .deferred ∧ s.bud.isoOpen = false ∧ i ∈ s.bud.items ∧ i.age ≠ 0 ∧ i.bay ≠ s.bay ∧
      s.ownItem own ∧ i ∈ s.bud.items.takeWhile (fun x => x.bay != s.bay) ∧
      (State.passes { s with bud.items := s.bud.items.filter (fun x => x.bay != i.bay) } own)) ∧
    (∃ (i own : StartItem) (s : State),
      s.notSuperseded ∧ s.bud.own.state = .deferred ∧ s.bud.isoOpen = false ∧ i ∈ s.bud.items ∧ i.age ≠ 0 ∧ i.bay ≠ s.bay ∧
      s.ownItem own ∧ i.fire = true ∧ (¬State.passes { s with bud.items := s.bud.items.filter (fun x => x.bay != i.bay) } own)) ∧
    (∃ (i own : StartItem) (s : State),
      s.notSuperseded ∧ s.bud.own.state = .deferred ∧ s.bud.isoOpen = false ∧ i ∈ s.bud.items ∧ i.age ≠ 0 ∧ i.bay ≠ s.bay ∧
      s.ownItem own ∧ i.fire = false ∧ i ∉ s.bud.items.takeWhile (fun x => x.bay != s.bay)) :=
  ⟨⟨aged (item 5 41 false), item 3 40 false, claiming .deferred false [aged (item 5 41 false), item 3 40 false],
      .inr (all4 (by decide +kernel)), by decide +kernel⟩,
    ⟨aged (item 5 41 true), item 3 40 false, claiming .deferred false [aged (item 5 41 true), item 6 41 true, item 3 40 false],
      .inr (all4 (by decide +kernel)), by decide +kernel⟩,
    ⟨aged (item 5 41 false), item 3 81 false, claiming .deferred false [item 3 81 false, aged (item 5 41 false)],
      .inr (all4 (by decide +kernel)), by decide +kernel⟩⟩

/-- Witness of Obligations.IsolatedStarts, clause by clause. -/
theorem witness_IsolatedStarts :
    (∃ (c : Chan) (s : State),
      ((s.waitsHigh c = true ∧ ∀ d, d.number < c.number → s.waitsHigh d = false) ∨ ((∀ d, s.waitsHigh d = false) ∧ ∀ d, d.number
        < c.number → (s.chan d).state ≠ .waiting)) ∧ s.bud.isoTimer.isSome = true ∧ s.supplyVeto = false ∧
      (s.chan c).state = .waiting ∧ s.bud.own.state = .none) ∧
    (∃ (s : State),
      (s.supplyVeto = true ∨ (∀ c, (s.chan c).state ≠ .waiting)) ∧ s.bud.isoTimer.isSome = true ∧ s.bud.own.state = .none) ∧
    (∃ (c : Chan) (s : State),
      (s.chan c).state ≠ .waiting) ∧
    (∃ (c : Chan) (m : Movement) (d : Dir) (s : State),
      (s.chan c).state = .waiting ∧ (s.chan c).dem.movement = some m ∧ (s.chan c).startDir (s.stroke c) m = some d) ∧
    (∃ (c : Chan) (m : Movement) (started jog : Option Jog) (w : Winner) (s : State),
      (s.chan c).state = .waiting ∧ (s.chan c).dem.movement = some m ∧ (s.chan c).startDir (s.stroke c) m = none ∧
      s.winner c = (s.chan c).dem.win ∧
      (started = (s.chan c).drv.jog.map (fun j => { j with timer := some (j.timer.getD j.time) })) ∧
      (jog = (if (s.chan c).drv.count = s.stroke c then started.filter (fun j => j.dir != .opening) else started)) ∧
      (w = State.winner (s.setChan c { s.chan c with drv.jog := jog }) c) ∧ (s.chan c).dem.refDue = false ∧
      (s.chan c).dem.moveCount ≠ 199) :=
  ⟨⟨.one, { stK toClose with sup.mode := .isolated, line.isolation := true, bud.isoTimer := some 0 },
      .inr ⟨all4 (by decide +kernel), all4 (by decide +kernel)⟩, by decide +kernel⟩,
    ⟨{ st with sup.mode := .isolated, line.isolation := true, bud.isoTimer := some 0 },
      .inr (all4 (by decide +kernel)), by decide +kernel⟩,
    ⟨.one, st, by decide +kernel⟩,
    ⟨.one, ⟨.ordinary, 0, some .weather⟩, .closing, stK toClose, by decide +kernel⟩,
    ⟨.one, ⟨.ordinary, 500, some .localKey⟩, none, none, some (.localKey, .pos 500), stK { restChannel with
        state := .waiting, src.localKey := some 500, dem.win := some (.localKey, .pos 500), dem.movement := some ⟨.ordinary,
          500, some .localKey⟩, drv.count := 2500 },
      by decide +kernel⟩⟩

/-- Witness of the cases of the sixth clause of Obligations.IsolatedStarts: a jog is begun and ended by a start at its end, and one
is begun and goes on. -/
theorem witness_IsolatedStarts_cases :
    (∃ (c : Chan) (m : Movement) (started jog : Option Jog) (w : Winner) (s : State),
      (s.chan c).state = .waiting ∧ (s.chan c).dem.movement = some m ∧ (s.chan c).startDir (s.stroke c) m = none ∧
      s.winner c = (s.chan c).dem.win ∧
      (started = (s.chan c).drv.jog.map (fun j => { j with timer := some (j.timer.getD j.time) })) ∧
      (jog = (if (s.chan c).drv.count = s.stroke c then started.filter (fun j => j.dir != .opening) else started)) ∧
      (w = State.winner (s.setChan c { s.chan c with drv.jog := jog }) c) ∧ (s.chan c).dem.refDue = false ∧
      (s.chan c).dem.moveCount ≠ 199 ∧ (s.chan c).drv.count = s.stroke c) ∧
    (∃ (c : Chan) (m : Movement) (started jog : Option Jog) (w : Winner) (s : State),
      (s.chan c).state = .waiting ∧ (s.chan c).dem.movement = some m ∧ (s.chan c).startDir (s.stroke c) m = none ∧
      s.winner c = (s.chan c).dem.win ∧
      (started = (s.chan c).drv.jog.map (fun j => { j with timer := some (j.timer.getD j.time) })) ∧
      (jog = (if (s.chan c).drv.count = s.stroke c then started.filter (fun j => j.dir != .opening) else started)) ∧
      (w = State.winner (s.setChan c { s.chan c with drv.jog := jog }) c) ∧ (s.chan c).dem.refDue = false ∧
      (s.chan c).dem.moveCount ≠ 199 ∧ (s.chan c).drv.count ≠ s.stroke c) :=
  ⟨⟨.one, ⟨.ordinary, 999, some .jog⟩, some ⟨.opening, 100, some 100⟩, none, none, { stK { restChannel with
        state := .waiting, dem.win := some (.jog, .pos 1000), dem.movement := some ⟨.ordinary, 999, some .jog⟩, drv.count :=
          100, drv.jog := some ⟨.opening, 100, none⟩ } with
        sup.mode := .service, cfg.fields.ch.one.stroke := some 100 },
      by decide +kernel⟩,
    ⟨.one, ⟨.ordinary, 500, some .jog⟩, some ⟨.opening, 100, some 100⟩, some ⟨.opening, 100, some 100⟩, some (.jog, .pos 1000),
      { stK { restChannel with
        state := .waiting, dem.win := some (.jog, .pos 1000), dem.movement := some ⟨.ordinary, 500, some .jog⟩, drv.count :=
          2500, drv.jog := some ⟨.opening, 100, none⟩ } with
        sup.mode := .service },
      by decide +kernel⟩⟩

/-- Witness of Obligations.PulsesAndTimers, clause by clause. -/
theorem witness_PulsesAndTimers :
    (∃ (c : Chan) (dir : Option Dir) (s : State),
      (dir = (if (s.chan c).driven then (s.chan c).drv.dir else if (s.chan c).drv.coast.isSome then (s.chan c).drv.lastDir else
        none)) ∧
      (dir = none ∨ (dir = some .opening ∧ s.stroke c ≤ (s.chan c).drv.count) ∨ (dir = some .closing ∧ (s.chan c).drv.count =
        0))) ∧
    (∃ (c : Chan) (dir : Dir) (n : Nat) (s : State),
      (if (s.chan c).driven then (s.chan c).drv.dir else if (s.chan c).drv.coast.isSome then (s.chan c).drv.lastDir else none) =
        some dir ∧
      ((dir = .opening ∧ (s.chan c).drv.count < s.stroke c ∧ n = (s.chan c).drv.count + 1) ∨ (dir = .closing ∧ n + 1 = (s.chan
        c).drv.count)) ∧
      ((s.chan c).state ≠ .running ∨ (∀ m ∈ (s.chan c).dem.movement, (dir = .opening → m.target < 1000 → n < (m.target *
        s.stroke c + 999) / 1000) ∧ (dir = .opening → 1000 ≤ m.target → (s.chan c).drv.referenced = false ∨ s.strokeKnown c =
        false ∨ n < s.stroke c) ∧ (dir = .closing → 0 < m.target → m.target * s.stroke c / 1000 < n)))) ∧
    (∃ (c : Chan) (dir : Dir) (n : Nat) (m : Movement) (jog : Option Jog) (w : Winner) (s : State),
      (s.chan c).state = .running ∧ (s.chan c).drv.dir = some dir ∧ (s.chan c).dem.movement = some m ∧ m.target < 1000 ∧
      0 < m.target ∧
      ((dir = .opening ∧ (s.chan c).drv.count < s.stroke c ∧ n = (s.chan c).drv.count + 1 ∧ (m.target * s.stroke c + 999) / 1000
        ≤ n) ∨ (dir = .closing ∧ n + 1 = (s.chan c).drv.count ∧ n ≤ m.target * s.stroke c / 1000)) ∧
      (jog = (if n = s.stroke c then (s.chan c).drv.jog.filter (fun j => j.dir != .opening) else (s.chan c).drv.jog)) ∧
      (w = State.winner (s.setChan c { s.chan c with drv.jog := jog }) c) ∧ s.winner c = (s.chan c).dem.win ∧
      (s.chan c).dem.refDue = false ∧ (s.chan c).dem.moveCount ≠ 199) ∧
    (∃ (c : Chan) (m : Movement) (jog : Option Jog) (w : Winner) (s : State),
      (s.chan c).state = .running ∧ (s.chan c).drv.dir = some .opening ∧ (s.chan c).dem.movement = some m ∧ m.target = 1000 ∧
      (s.chan c).drv.referenced = true ∧ s.strokeKnown c = true ∧ (s.chan c).drv.count + 1 = s.stroke c ∧
      jog = (s.chan c).drv.jog.filter (fun j => j.dir != .opening) ∧
      (w = State.winner (s.setChan c { s.chan c with drv.jog := jog }) c) ∧ s.winner c = (s.chan c).dem.win ∧
      (s.chan c).dem.refDue = false ∧ (s.chan c).dem.moveCount ≠ 199) ∧
    (∃ (c : Chan) (dir : Dir) (n : Nat) (m : Movement) (jog : Option Jog) (w : Winner) (s : State),
      (s.chan c).state = .running ∧ (s.chan c).drv.dir = some dir ∧ (s.chan c).dem.movement = some m ∧ m.target < 1000 ∧
      0 < m.target ∧
      ((dir = .opening ∧ (s.chan c).drv.count < s.stroke c ∧ n = (s.chan c).drv.count + 1 ∧ (m.target * s.stroke c + 999) / 1000
        ≤ n) ∨ (dir = .closing ∧ n + 1 = (s.chan c).drv.count ∧ n ≤ m.target * s.stroke c / 1000)) ∧
      (jog = (if n = s.stroke c then (s.chan c).drv.jog.filter (fun j => j.dir != .opening) else (s.chan c).drv.jog)) ∧
      (w = State.winner (s.setChan c { s.chan c with drv.jog := jog }) c) ∧ s.winner c = (s.chan c).dem.win ∧
      (s.chan c).drv.referenced = true ∧ (s.chan c).dem.moveCount = 199) ∧
    (∃ (c : Chan) (s : State),
      (s.chan c).driven = true ∧ (s.chan c).drv.inrushMask.isSome = true) ∧
    (∃ (c : Chan) (_mean : Nat) (s : State),
      (s.chan c).driven = true ∧ (s.chan c).drv.reportTimer.isSome = true) :=
  ⟨⟨.one, some .closing, stK (driving .closing 0), by decide +kernel⟩,
    ⟨.one, .opening, 5000, stK { restChannel with drv.coast := some 1, drv.lastDir := some .opening, drv.count := 4999 },
      by decide +kernel⟩,
    ⟨.one, .opening, 2500, ⟨.ordinary, 500, some .localKey⟩, none, some (.localKey, .pos 500), stK { driving .opening 2499 with
        dem.movement := some ⟨.ordinary, 500, some .localKey⟩, src.localKey := some 500, dem.win := some (.localKey, .pos 500)
          },
      by decide +kernel⟩,
    ⟨.one, ⟨.ordinary, 1000, some .localKey⟩, none, some (.localKey, .pos 1000), stK { driving .opening 4999 with
        dem.movement := some ⟨.ordinary, 1000, some .localKey⟩, src.localKey := some 1000, dem.win := some (.localKey, .pos
          1000) },
      by decide +kernel⟩,
    ⟨.one, .closing, 2500, ⟨.ordinary, 500, some .localKey⟩, none, some (.localKey, .pos 500), stK { driving .closing 2501 with
        dem.movement := some ⟨.ordinary, 500, some .localKey⟩, src.localKey := some 500, dem.win := some (.localKey, .pos 500),
          dem.moveCount := 199 },
      by decide +kernel⟩,
    ⟨.one, stK { driving .opening 0 with drv.inrushMask := some 0 }, by decide +kernel⟩,
    ⟨.one, 65536, stK { driving .opening 0 with drv.reportTimer := some 0 }, by decide +kernel⟩⟩

/-- Witness of the cases of Obligations.PulsesAndTimers: the last pulse of a run to 1000 but one; a jog that ends at the end
reached, and one that goes on at a stop point; and the 200th completion with the reference started, held back by a veto, and
with a jog ended. -/
theorem witness_PulsesAndTimers_cases :
    (∃ (c : Chan) (dir : Dir) (n : Nat) (s : State),
      (if (s.chan c).driven then (s.chan c).drv.dir else if (s.chan c).drv.coast.isSome then (s.chan c).drv.lastDir else none) =
        some dir ∧
      ((dir = .opening ∧ (s.chan c).drv.count < s.stroke c ∧ n = (s.chan c).drv.count + 1) ∨ (dir = .closing ∧ n + 1 = (s.chan
        c).drv.count)) ∧
      ((s.chan c).state ≠ .running ∨ (∀ m ∈ (s.chan c).dem.movement, (dir = .opening → m.target < 1000 → n < (m.target *
        s.stroke c + 999) / 1000) ∧ (dir = .opening → 1000 ≤ m.target → (s.chan c).drv.referenced = false ∨ s.strokeKnown c =
        false ∨ n < s.stroke c) ∧ (dir = .closing → 0 < m.target → m.target * s.stroke c / 1000 < n))) ∧
      (s.chan c).state = .running ∧ n + 1 = s.stroke c) ∧
    (∃ (c : Chan) (dir : Dir) (n : Nat) (m : Movement) (jog : Option Jog) (w : Winner) (s : State),
      (s.chan c).state = .running ∧ (s.chan c).drv.dir = some dir ∧ (s.chan c).dem.movement = some m ∧ m.target < 1000 ∧
      0 < m.target ∧
      ((dir = .opening ∧ (s.chan c).drv.count < s.stroke c ∧ n = (s.chan c).drv.count + 1 ∧ (m.target * s.stroke c + 999) / 1000
        ≤ n) ∨ (dir = .closing ∧ n + 1 = (s.chan c).drv.count ∧ n ≤ m.target * s.stroke c / 1000)) ∧
      (jog = (if n = s.stroke c then (s.chan c).drv.jog.filter (fun j => j.dir != .opening) else (s.chan c).drv.jog)) ∧
      (w = State.winner (s.setChan c { s.chan c with drv.jog := jog }) c) ∧ s.winner c = (s.chan c).dem.win ∧
      (s.chan c).dem.refDue = false ∧ (s.chan c).dem.moveCount ≠ 199 ∧ (s.chan c).drv.jog.isSome = true ∧ jog = none) ∧
    (∃ (c : Chan) (dir : Dir) (n : Nat) (m : Movement) (jog : Option Jog) (w : Winner) (s : State),
      (s.chan c).state = .running ∧ (s.chan c).drv.dir = some dir ∧ (s.chan c).dem.movement = some m ∧ m.target < 1000 ∧
      0 < m.target ∧
      ((dir = .opening ∧ (s.chan c).drv.count < s.stroke c ∧ n = (s.chan c).drv.count + 1 ∧ (m.target * s.stroke c + 999) / 1000
        ≤ n) ∨ (dir = .closing ∧ n + 1 = (s.chan c).drv.count ∧ n ≤ m.target * s.stroke c / 1000)) ∧
      (jog = (if n = s.stroke c then (s.chan c).drv.jog.filter (fun j => j.dir != .opening) else (s.chan c).drv.jog)) ∧
      (w = State.winner (s.setChan c { s.chan c with drv.jog := jog }) c) ∧ s.winner c = (s.chan c).dem.win ∧
      (s.chan c).dem.refDue = false ∧ (s.chan c).dem.moveCount ≠ 199 ∧ jog.isSome = true) ∧
    (∃ (c : Chan) (m : Movement) (jog : Option Jog) (w : Winner) (s : State),
      (s.chan c).state = .running ∧ (s.chan c).drv.dir = some .opening ∧ (s.chan c).dem.movement = some m ∧ m.target = 1000 ∧
      (s.chan c).drv.referenced = true ∧ s.strokeKnown c = true ∧ (s.chan c).drv.count + 1 = s.stroke c ∧
      jog = (s.chan c).drv.jog.filter (fun j => j.dir != .opening) ∧
      (w = State.winner (s.setChan c { s.chan c with drv.jog := jog }) c) ∧ s.winner c = (s.chan c).dem.win ∧
      (s.chan c).dem.refDue = false ∧ (s.chan c).dem.moveCount ≠ 199 ∧ (s.chan c).drv.jog.isSome = true) ∧
    (∃ (c : Chan) (dir : Dir) (n : Nat) (m : Movement) (jog : Option Jog) (w : Winner) (s : State),
      (s.chan c).state = .running ∧ (s.chan c).drv.dir = some dir ∧ (s.chan c).dem.movement = some m ∧ m.target < 1000 ∧
      0 < m.target ∧
      ((dir = .opening ∧ (s.chan c).drv.count < s.stroke c ∧ n = (s.chan c).drv.count + 1 ∧ (m.target * s.stroke c + 999) / 1000
        ≤ n) ∨ (dir = .closing ∧ n + 1 = (s.chan c).drv.count ∧ n ≤ m.target * s.stroke c / 1000)) ∧
      (jog = (if n = s.stroke c then (s.chan c).drv.jog.filter (fun j => j.dir != .opening) else (s.chan c).drv.jog)) ∧
      (w = State.winner (s.setChan c { s.chan c with drv.jog := jog }) c) ∧ s.winner c = (s.chan c).dem.win ∧
      (s.chan c).drv.referenced = true ∧ (s.chan c).dem.moveCount = 199 ∧ (s.chan c).lim.veto = false) ∧
    (∃ (c : Chan) (dir : Dir) (n : Nat) (m : Movement) (jog : Option Jog) (w : Winner) (s : State),
      (s.chan c).state = .running ∧ (s.chan c).drv.dir = some dir ∧ (s.chan c).dem.movement = some m ∧ m.target < 1000 ∧
      0 < m.target ∧
      ((dir = .opening ∧ (s.chan c).drv.count < s.stroke c ∧ n = (s.chan c).drv.count + 1 ∧ (m.target * s.stroke c + 999) / 1000
        ≤ n) ∨ (dir = .closing ∧ n + 1 = (s.chan c).drv.count ∧ n ≤ m.target * s.stroke c / 1000)) ∧
      (jog = (if n = s.stroke c then (s.chan c).drv.jog.filter (fun j => j.dir != .opening) else (s.chan c).drv.jog)) ∧
      (w = State.winner (s.setChan c { s.chan c with drv.jog := jog }) c) ∧ s.winner c = (s.chan c).dem.win ∧
      (s.chan c).drv.referenced = true ∧ (s.chan c).dem.moveCount = 199 ∧ (s.chan c).lim.veto = true) ∧
    (∃ (c : Chan) (dir : Dir) (n : Nat) (m : Movement) (jog : Option Jog) (w : Winner) (s : State),
      (s.chan c).state = .running ∧ (s.chan c).drv.dir = some dir ∧ (s.chan c).dem.movement = some m ∧ m.target < 1000 ∧
      0 < m.target ∧
      ((dir = .opening ∧ (s.chan c).drv.count < s.stroke c ∧ n = (s.chan c).drv.count + 1 ∧ (m.target * s.stroke c + 999) / 1000
        ≤ n) ∨ (dir = .closing ∧ n + 1 = (s.chan c).drv.count ∧ n ≤ m.target * s.stroke c / 1000)) ∧
      (jog = (if n = s.stroke c then (s.chan c).drv.jog.filter (fun j => j.dir != .opening) else (s.chan c).drv.jog)) ∧
      (w = State.winner (s.setChan c { s.chan c with drv.jog := jog }) c) ∧ s.winner c = (s.chan c).dem.win ∧
      (s.chan c).drv.referenced = true ∧ (s.chan c).dem.moveCount = 199 ∧ (s.chan c).drv.jog.isSome = true) :=
  ⟨⟨.one, .opening, 4999, stK { driving .opening 4998 with
        dem.movement := some ⟨.ordinary, 1000, some .localKey⟩, src.localKey := some 1000, dem.win := some (.localKey, .pos
          1000) },
      by decide +kernel⟩,
    ⟨.one, .opening, 5000, ⟨.ordinary, 999, some .jog⟩, none, none, { stK { driving .opening 4999 with
        drv.jog := some ⟨.opening, 100, some 0⟩, dem.win := some (.jog, .pos 1000), dem.movement := some ⟨.ordinary, 999, some
          .jog⟩ } with
        sup.mode := .service },
      by decide +kernel⟩,
    ⟨.one, .opening, 2500, ⟨.ordinary, 500, some .jog⟩, some ⟨.opening, 100, some 0⟩, some (.jog, .pos 1000), { stK { driving
      .opening 2499 with
        drv.jog := some ⟨.opening, 100, some 0⟩, dem.win := some (.jog, .pos 1000), dem.movement := some ⟨.ordinary, 500, some
          .jog⟩ } with
        sup.mode := .service },
      by decide +kernel⟩,
    ⟨.one, ⟨.ordinary, 1000, some .jog⟩, none, none, { stK { driving .opening 4999 with
        drv.jog := some ⟨.opening, 100, some 0⟩, dem.win := some (.jog, .pos 1000), dem.movement := some ⟨.ordinary, 1000, some
          .jog⟩ } with
        sup.mode := .service },
      by decide +kernel⟩,
    ⟨.one, .closing, 2500, ⟨.ordinary, 500, some .localKey⟩, none, some (.localKey, .pos 500), stK { driving .closing 2501 with
        dem.movement := some ⟨.ordinary, 500, some .localKey⟩, src.localKey := some 500, dem.win := some (.localKey, .pos 500),
          dem.moveCount := 199 },
      by decide +kernel⟩,
    ⟨.one, .closing, 2500, ⟨.ordinary, 500, some .localKey⟩, none, none, stK { driving .closing 2501 with
        dem.movement := some ⟨.ordinary, 500, some .localKey⟩, src.localKey := some 500, dem.moveCount := 199, lim.veto := true,
          dem.win := none },
      by decide +kernel⟩,
    ⟨.one, .opening, 5000, ⟨.ordinary, 999, some .jog⟩, none, none, { stK { driving .opening 4999 with
        dem.moveCount := 199, drv.jog := some ⟨.opening, 100, some 0⟩, dem.win := some (.jog, .pos 1000), dem.movement := some
          ⟨.ordinary, 999, some .jog⟩ } with
        sup.mode := .service },
      by decide +kernel⟩⟩

/-- Witness of Obligations.StallTaken, clause by clause. -/
theorem witness_StallTaken :
    (∃ (c : Chan) (jog : Option Jog) (w : Winner) (s : State),
      (s.chan c).state = .referencing ∧ (s.chan c).drv.stallTimer.isSome = true ∧
      jog = (s.chan c).drv.jog.filter (fun j => j.dir != .closing) ∧
      (w = State.winner (s.setChan c { s.chan c with drv.jog := jog }) c) ∧ (∀ x ∈ w, x.2 = .pos 0 ∨ x.2 = .hold)) ∧
    (∃ (c : Chan) (src : Source) (n : Nat) (jog : Option Jog) (w : Winner) (s : State),
      (s.chan c).state = .referencing ∧ (s.chan c).drv.stallTimer.isSome = true ∧
      jog = (s.chan c).drv.jog.filter (fun j => j.dir != .closing) ∧
      (w = State.winner (s.setChan c { s.chan c with drv.jog := jog }) c) ∧ w = some (src, .pos n) ∧ s.strokeKnown c = true ∧
      20 ≤ n) ∧
    (∃ (c : Chan) (dir : Dir) (m : Movement) (jog : Option Jog) (w : Winner) (s : State),
      (s.chan c).state = .running ∧ (s.chan c).drv.stallTimer.isSome = true ∧ (s.chan c).drv.dir = some dir ∧
      (s.chan c).dem.movement = some m ∧ jog = (s.chan c).drv.jog.filter (fun j => j.dir != dir) ∧
      (w = State.winner (s.setChan c { s.chan c with drv.jog := jog }) c) ∧ s.winner c = (s.chan c).dem.win ∧
      (s.chan c).dem.refDue = false ∧ (s.chan c).dem.moveCount ≠ 199 ∧
      ((dir = .opening ∧ m.target = 1000 ∧ ((s.chan c).drv.referenced = false ∨ s.strokeKnown c = false ∨ s.stroke c - s.stroke
        c / 20 ≤ (s.chan c).drv.count)) ∨ (dir = .closing ∧ m.target = 0 ∧ ((s.chan c).drv.referenced = false ∨ s.strokeKnown c
        = false ∨ (s.chan c).drv.count ≤ s.stroke c / 20)))) ∧
    (∃ (c : Chan) (dir : Dir) (m : Movement) (jog : Option Jog) (w : Winner) (s : State),
      (s.chan c).state = .running ∧ (s.chan c).drv.stallTimer.isSome = true ∧ (s.chan c).drv.dir = some dir ∧
      (s.chan c).dem.movement = some m ∧ jog = (s.chan c).drv.jog.filter (fun j => j.dir != dir) ∧
      (w = State.winner (s.setChan c { s.chan c with drv.jog := jog }) c) ∧ s.winner c = (s.chan c).dem.win ∧
      (s.chan c).drv.referenced = true ∧ (s.chan c).dem.moveCount = 199 ∧
      ((dir = .opening ∧ m.target = 1000 ∧ (s.strokeKnown c = false ∨ s.stroke c - s.stroke c / 20 ≤ (s.chan c).drv.count)) ∨
        (dir = .closing ∧ m.target = 0 ∧ (s.strokeKnown c = false ∨ (s.chan c).drv.count ≤ s.stroke c / 20)))) ∧
    (∃ (c : Chan) (src : Source) (n : Nat) (m : Movement) (jog : Option Jog) (w : Winner) (s : State),
      (s.chan c).state = .running ∧ (s.chan c).drv.stallTimer.isSome = true ∧ (s.chan c).drv.dir = some .closing ∧
      (s.chan c).dem.movement = some m ∧ m.target ≠ 0 ∧ jog = (s.chan c).drv.jog.filter (fun j => j.dir != .closing) ∧
      (w = State.winner (s.setChan c { s.chan c with drv.jog := jog }) c) ∧ w = some (src, .pos n) ∧
      (s.chan c).drv.referenced = true ∧ s.strokeKnown c = true ∧ (s.chan c).drv.count ≤ s.stroke c / 20 ∧ 20 ≤ n ∧
      (s.chan c).dem.refDue = false) ∧
    (∃ (c : Chan) (dir : Dir) (w : Winner) (s : State),
      (s.chan c).state = .running ∧ (s.chan c).drv.stallTimer.isSome = true ∧ (s.chan c).drv.dir = some dir ∧
      (w = State.winner (s.setChan c { s.chan c with drv.jog := none }) c) ∧ (s.chan c).drv.referenced = true ∧
      s.strokeKnown c = true ∧
      ((dir = .opening ∧ (s.chan c).drv.count < s.stroke c - s.stroke c / 20) ∨ (dir = .closing ∧ s.stroke c / 20 < (s.chan
        c).drv.count))) :=
  ⟨⟨.one, none, none, stK referencing, by decide +kernel⟩,
    ⟨.one, .localKey, 500, none, some (.localKey, .pos 500), stK { referencing with
        src.localKey := some 500, dem.win := some (.localKey, .pos 500) },
      by decide +kernel⟩,
    ⟨.one, .opening, ⟨.ordinary, 1000, some .localKey⟩, none, some (.localKey, .pos 1000), stK { driving .opening 4750 with
        dem.movement := some ⟨.ordinary, 1000, some .localKey⟩, src.localKey := some 1000, dem.win := some (.localKey, .pos
          1000), drv.stallTimer := some 0 },
      by decide +kernel⟩,
    ⟨.one, .closing, ⟨.ordinary, 0, some .localKey⟩, none, some (.localKey, .pos 0), stK { driving .closing 250 with
        dem.movement := some ⟨.ordinary, 0, some .localKey⟩, src.localKey := some 0, dem.win := some (.localKey, .pos 0),
          drv.stallTimer := some 0, dem.moveCount := 199 },
      by decide +kernel⟩,
    ⟨.one, .localKey, 30, ⟨.ordinary, 30, some .localKey⟩, none, some (.localKey, .pos 30), stK { driving .closing 250 with
        dem.movement := some ⟨.ordinary, 30, some .localKey⟩, src.localKey := some 30, dem.win := some (.localKey, .pos 30),
          drv.stallTimer := some 0 },
      by decide +kernel⟩,
    ⟨.one, .closing, some (.localKey, .pos 0), stK { driving .closing 251 with
        dem.movement := some ⟨.ordinary, 0, some .localKey⟩, src.localKey := some 0, dem.win := some (.localKey, .pos 0),
          drv.stallTimer := some 0 },
      by decide +kernel⟩⟩

/-- Witness of Obligations.StallTaken with a jog in hand, clause by clause: one toward the end reached, one away from it, and one
that a fault ends. -/
theorem witness_StallTaken_cases :
    (∃ (c : Chan) (jog : Option Jog) (w : Winner) (s : State),
      (s.chan c).state = .referencing ∧ (s.chan c).drv.stallTimer.isSome = true ∧
      jog = (s.chan c).drv.jog.filter (fun j => j.dir != .closing) ∧
      (w = State.winner (s.setChan c { s.chan c with drv.jog := jog }) c) ∧ (∀ x ∈ w, x.2 = .pos 0 ∨ x.2 = .hold) ∧
      (s.chan c).drv.jog.isSome = true) ∧
    (∃ (c : Chan) (src : Source) (n : Nat) (jog : Option Jog) (w : Winner) (s : State),
      (s.chan c).state = .referencing ∧ (s.chan c).drv.stallTimer.isSome = true ∧
      jog = (s.chan c).drv.jog.filter (fun j => j.dir != .closing) ∧
      (w = State.winner (s.setChan c { s.chan c with drv.jog := jog }) c) ∧ w = some (src, .pos n) ∧ s.strokeKnown c = true ∧
      20 ≤ n ∧ (s.chan c).drv.jog.isSome = true) ∧
    (∃ (c : Chan) (dir : Dir) (m : Movement) (jog : Option Jog) (w : Winner) (s : State),
      (s.chan c).state = .running ∧ (s.chan c).drv.stallTimer.isSome = true ∧ (s.chan c).drv.dir = some dir ∧
      (s.chan c).dem.movement = some m ∧ jog = (s.chan c).drv.jog.filter (fun j => j.dir != dir) ∧
      (w = State.winner (s.setChan c { s.chan c with drv.jog := jog }) c) ∧ s.winner c = (s.chan c).dem.win ∧
      (s.chan c).dem.refDue = false ∧ (s.chan c).dem.moveCount ≠ 199 ∧
      ((dir = .opening ∧ m.target = 1000 ∧ ((s.chan c).drv.referenced = false ∨ s.strokeKnown c = false ∨ s.stroke c - s.stroke
        c / 20 ≤ (s.chan c).drv.count)) ∨ (dir = .closing ∧ m.target = 0 ∧ ((s.chan c).drv.referenced = false ∨ s.strokeKnown c
        = false ∨ (s.chan c).drv.count ≤ s.stroke c / 20))) ∧ (s.chan c).drv.jog.isSome = true) ∧
    (∃ (c : Chan) (dir : Dir) (m : Movement) (jog : Option Jog) (w : Winner) (s : State),
      (s.chan c).state = .running ∧ (s.chan c).drv.stallTimer.isSome = true ∧ (s.chan c).drv.dir = some dir ∧
      (s.chan c).dem.movement = some m ∧ jog = (s.chan c).drv.jog.filter (fun j => j.dir != dir) ∧
      (w = State.winner (s.setChan c { s.chan c with drv.jog := jog }) c) ∧ s.winner c = (s.chan c).dem.win ∧
      (s.chan c).drv.referenced = true ∧ (s.chan c).dem.moveCount = 199 ∧
      ((dir = .opening ∧ m.target = 1000 ∧ (s.strokeKnown c = false ∨ s.stroke c - s.stroke c / 20 ≤ (s.chan c).drv.count)) ∨
        (dir = .closing ∧ m.target = 0 ∧ (s.strokeKnown c = false ∨ (s.chan c).drv.count ≤ s.stroke c / 20))) ∧
      (s.chan c).drv.jog.isSome = true) ∧
    (∃ (c : Chan) (src : Source) (n : Nat) (m : Movement) (jog : Option Jog) (w : Winner) (s : State),
      (s.chan c).state = .running ∧ (s.chan c).drv.stallTimer.isSome = true ∧ (s.chan c).drv.dir = some .closing ∧
      (s.chan c).dem.movement = some m ∧ m.target ≠ 0 ∧ jog = (s.chan c).drv.jog.filter (fun j => j.dir != .closing) ∧
      (w = State.winner (s.setChan c { s.chan c with drv.jog := jog }) c) ∧ w = some (src, .pos n) ∧
      (s.chan c).drv.referenced = true ∧ s.strokeKnown c = true ∧ (s.chan c).drv.count ≤ s.stroke c / 20 ∧ 20 ≤ n ∧
      (s.chan c).dem.refDue = false ∧ (s.chan c).drv.jog.isSome = true) ∧
    (∃ (c : Chan) (dir : Dir) (w : Winner) (s : State),
      (s.chan c).state = .running ∧ (s.chan c).drv.stallTimer.isSome = true ∧ (s.chan c).drv.dir = some dir ∧
      (w = State.winner (s.setChan c { s.chan c with drv.jog := none }) c) ∧ (s.chan c).drv.referenced = true ∧
      s.strokeKnown c = true ∧
      ((dir = .opening ∧ (s.chan c).drv.count < s.stroke c - s.stroke c / 20) ∨ (dir = .closing ∧ s.stroke c / 20 < (s.chan
        c).drv.count)) ∧ (s.chan c).drv.jog.isSome = true) :=
  ⟨⟨.one, none, none, { stK { referencing with
        drv.jog := some ⟨.closing, 100, some 0⟩, dem.win := some (.jog, .pos 0) } with
        sup.mode := .service },
      by decide +kernel⟩,
    ⟨.one, .jog, 1000, some ⟨.opening, 100, some 0⟩, some (.jog, .pos 1000), { stK { referencing with
        drv.jog := some ⟨.opening, 100, some 0⟩, dem.win := some (.jog, .pos 1000) } with
        sup.mode := .service },
      by decide +kernel⟩,
    ⟨.one, .opening, ⟨.ordinary, 1000, some .jog⟩, none, none, { stK { driving .opening 4750 with
        drv.stallTimer := some 0, drv.jog := some ⟨.opening, 100, some 0⟩, dem.win := some (.jog, .pos 1000), dem.movement :=
          some ⟨.ordinary, 1000, some .jog⟩ } with
        sup.mode := .service },
      by decide +kernel⟩,
    ⟨.one, .closing, ⟨.ordinary, 0, some .jog⟩, none, none, { stK { driving .closing 250 with
        drv.stallTimer := some 0, dem.moveCount := 199, drv.jog := some ⟨.closing, 100, some 0⟩, dem.win := some (.jog, .pos 0),
          dem.movement := some ⟨.ordinary, 0, some .jog⟩ } with
        sup.mode := .service },
      by decide +kernel⟩,
    ⟨.one, .jog, 1000, ⟨.ordinary, 500, some .jog⟩, some ⟨.opening, 100, some 0⟩, some (.jog, .pos 1000), { stK { driving
      .closing 250 with
        drv.stallTimer := some 0, drv.jog := some ⟨.opening, 100, some 0⟩, dem.win := some (.jog, .pos 1000), dem.movement :=
          some ⟨.ordinary, 500, some .jog⟩ } with
        sup.mode := .service },
      by decide +kernel⟩,
    ⟨.one, .opening, none, { stK { driving .opening 4749 with
        drv.stallTimer := some 0, drv.jog := some ⟨.opening, 100, some 0⟩, dem.win := some (.jog, .pos 1000), dem.movement :=
          some ⟨.ordinary, 1000, some .jog⟩ } with
        sup.mode := .service },
      by decide +kernel⟩⟩

/-- Witness of Obligations.FaultsAndRetries, clause by clause. -/
theorem witness_FaultsAndRetries :
    (∃ (c : Chan) (w : Winner) (s : State),
      (s.chan c).driven = true ∧ (s.chan c).drv.overcurrentTimer.isSome = true ∧
      (w = State.winner (s.setChan c { s.chan c with drv.jog := none }) c)) ∧
    (∃ (c : Chan) (w : Winner) (s : State),
      (s.chan c).driven = true ∧ (s.chan c).drv.openLoadTimer.isSome = true ∧
      (w = State.winner (s.setChan c { s.chan c with drv.jog := none }) c)) ∧
    (∃ (c : Chan) (w : Winner) (s : State),
      (s.chan c).driven = true ∧ (s.chan c).drv.noPulseTimer.isSome = true ∧
      (w = State.winner (s.setChan c { s.chan c with drv.jog := none }) c)) ∧
    (∃ (c : Chan) (s : State),
      (s.chan c).state = .faulted ∧ (s.chan c).drv.retryTimer.isSome = true ∧ s.supplyVeto = true) ∧
    (∃ (c : Chan) (src : Source) (n : Nat) (s : State),
      (s.chan c).state = .faulted ∧ (s.chan c).drv.retryTimer.isSome = true ∧ s.supplyVeto = false ∧
      (s.chan c).dem.win = some (src, .pos n) ∧ (src = .override ∨ src = .fire) ∧ (s.chan c).drv.referenced = true ∧
      s.bud.isoOpen = false ∧ (s.bud.own.state ≠ .deferred ∨ s.bud.own.channels.get c = false)) ∧
    (∃ (c : Chan) (n : Nat) (k : Channel) (s : State),
      (∃ src, (s.chan c).dem.win = some (src, .pos n) ∧ (src = .override ∨ src = .fire) ∧ k = { s.chan c with
          state := .waiting, dem.pending := none, dem.movement := some ⟨if n = 1000 ∨ (s.chan c).lim.veto = true then .ordinary
            else .reference, n, some src⟩, drv.retryCount := (s.chan c).drv.retryCount + 1, drv.retryTimer := none,
            drv.retryHeld := false }) ∧ (s.chan c).state = .faulted ∧ (s.chan c).drv.retryTimer.isSome = true ∧
      s.supplyVeto = false ∧ (s.chan c).drv.referenced = false ∧ (n = 0 ∨ (n = 1000 ∧ (s.chan c).drv.restEnd ≠ some .openEnd)) ∧
      s.bud.isoOpen = false ∧ (s.bud.own.state ≠ .deferred ∨ s.bud.own.channels.get c = false)) :=
  ⟨⟨.one, none, stK { driving .opening 0 with drv.overcurrentTimer := some 0 }, by decide +kernel⟩,
    ⟨.one, none, stK { driving .opening 0 with drv.openLoadTimer := some 0 }, by decide +kernel⟩,
    ⟨.one, none, stK { driving .opening 0 with drv.noPulseTimer := some 0 }, by decide +kernel⟩,
    ⟨.one, { stK { restChannel with
        state := .faulted, src.fire := some (.pos 1000), dem.win := some (.fire, .pos 1000), drv.retryTimer := some 0 } with
        sup.low := true },
      by decide +kernel⟩,
    ⟨.one, .fire, 1000, stK { restChannel with
        state := .faulted, src.fire := some (.pos 1000), dem.win := some (.fire, .pos 1000), drv.retryTimer := some 0 },
      by decide +kernel⟩,
    ⟨.one, 0, _, stK { restChannel with
        state := .faulted, src.fire := some (.pos 0), dem.win := some (.fire, .pos 0), drv.retryTimer := some 0, drv.referenced
          := false },
      ⟨.fire, rfl, .inr rfl, rfl⟩, by decide +kernel⟩⟩

/-- Witness of the cases of Obligations.FaultsAndRetries: a fault ends a jog that drives the channel, and one that FIRE overrides,
with a retry to come; and a retry calls for no movement. -/
theorem witness_FaultsAndRetries_cases :
    (∃ (c : Chan) (w : Winner) (s : State),
      (s.chan c).driven = true ∧ (s.chan c).drv.overcurrentTimer.isSome = true ∧
      (w = State.winner (s.setChan c { s.chan c with drv.jog := none }) c) ∧ (s.chan c).drv.jog.isSome = true) ∧
    (∃ (c : Chan) (w : Winner) (s : State),
      (s.chan c).driven = true ∧ (s.chan c).drv.openLoadTimer.isSome = true ∧
      (w = State.winner (s.setChan c { s.chan c with drv.jog := none }) c) ∧ (s.chan c).drv.jog.isSome = true ∧
      retryWinner w = true) ∧
    (∃ (c : Chan) (w : Winner) (s : State),
      (s.chan c).driven = true ∧ (s.chan c).drv.noPulseTimer.isSome = true ∧
      (w = State.winner (s.setChan c { s.chan c with drv.jog := none }) c) ∧ (s.chan c).drv.jog.isSome = true) ∧
    (∃ (c : Chan) (src : Source) (n : Nat) (s : State),
      (s.chan c).state = .faulted ∧ (s.chan c).drv.retryTimer.isSome = true ∧ s.supplyVeto = false ∧
      (s.chan c).dem.win = some (src, .pos n) ∧ (src = .override ∨ src = .fire) ∧ (s.chan c).drv.referenced = true ∧
      s.bud.isoOpen = false ∧ (s.bud.own.state ≠ .deferred ∨ s.bud.own.channels.get c = false) ∧ s.callsMovement c n = false) :=
  ⟨⟨.one, none, { stK { driving .opening 0 with
        drv.overcurrentTimer := some 0, drv.jog := some ⟨.opening, 100, some 0⟩, dem.win := some (.jog, .pos 1000), dem.movement
          := some ⟨.ordinary, 1000, some .jog⟩ } with
        sup.mode := .service },
      by decide +kernel⟩,
    ⟨.one, some (.fire, .pos 1000), { stK { driving .opening 0 with
        drv.openLoadTimer := some 0, src.fire := some (.pos 1000), dem.win := some (.fire, .pos 1000), drv.jog := some
          ⟨.opening, 100, some 0⟩ } with
        sup.mode := .service },
      by decide +kernel⟩,
    ⟨.one, none, { stK { driving .opening 0 with
        drv.noPulseTimer := some 0, drv.jog := some ⟨.opening, 100, some 0⟩, dem.win := some (.jog, .pos 1000), dem.movement :=
          some ⟨.ordinary, 1000, some .jog⟩ } with
        sup.mode := .service },
      by decide +kernel⟩,
    ⟨.one, .fire, 0, stK { restChannel with
        state := .faulted, src.fire := some (.pos 0), dem.win := some (.fire, .pos 0), drv.retryTimer := some 0, drv.restEnd :=
          some .closedEnd },
      by decide +kernel⟩⟩

/-- Witness of Obligations.PausesJogsReferences, clause by clause. -/
theorem witness_PausesJogsReferences :
    (∃ (c : Chan) (src : Source) (n : Nat) (p : Target) (s : State),
      (s.chan c).state = .reversing ∧ (s.chan c).drv.reversalTimer.isSome = true ∧ s.supplyVeto = false ∧
      (s.chan c).drv.referenced = true ∧ (s.chan c).dem.refDue = false ∧ (s.chan c).dem.win = some (src, p) ∧
      (s.chan c).dem.pending = some (.pos n) ∧ s.bud.isoOpen = false ∧
      (s.bud.own.state ≠ .deferred ∨ s.bud.own.channels.get c = false)) ∧
    (∃ (c : Chan) (s : State),
      (s.chan c).state = .reversing ∧ (s.chan c).drv.reversalTimer.isSome = true ∧ (s.chan c).dem.refDue = false ∧
      ((s.chan c).dem.pending = none ∨ (s.chan c).dem.pending = some .hold)) ∧
    (∃ (c : Chan) (s : State),
      (s.chan c).jogRuns = true ∧ s.winner c = (s.chan c).dem.win ∧ (∀ w ∈ s.winner c, w.1 ≠ .jog)) ∧
    (∃ (c : Chan) (s : State),
      (s.chan c).jogRuns = true ∧ s.detected = true ∧ (s.chan c).state = .running ∧
      (s.chan c).src = ⟨none, none, false, none, none⟩ ∧ (s.chan c).lim.veto = false ∧ s.supplyVeto = false ∧
      s.winner c = (s.chan c).dem.win ∧ (s.chan c).dem.refDue = false) ∧
    (∃ (c : Chan) (s : State),
      (s.chan c).jogRuns = true ∧ s.detected = true ∧ (s.chan c).state = .referencing ∧
      (s.chan c).dem.win.map Prod.fst = some .jog ∧ (s.chan c).src = ⟨none, none, false, none, none⟩) ∧
    (∃ (c : Chan) (s : State),
      (s.chan c).dem.refTimer.isSome = true ∧ (s.chan c).state = .idle ∧ s.supplyVeto = false ∧ (s.chan c).lim.veto = false ∧
      (∀ w ∈ (s.chan c).dem.win, w.1 ≠ .override ∧ w.1 ≠ .fire ∧ w.1 ≠ .weather) ∧ s.bud.isoOpen = false ∧
      (s.bud.own.state ≠ .deferred ∨ s.bud.own.channels.get c = false)) ∧
    (∃ (c : Chan) (s : State),
      (s.chan c).dem.refTimer.isSome = true ∧
      ((s.chan c).state ≠ .idle ∨ s.supplyVeto = true ∨ (s.chan c).lim.veto = true ∨ (∃ w ∈ (s.chan c).dem.win, w.1 = .override
        ∨ w.1 = .fire ∨ w.1 = .weather))) :=
  ⟨⟨.one, .localKey, 20, .pos 20, stK { restChannel with
        state := .reversing, drv.reversalTimer := some 0, dem.win := some (.localKey, .pos 20), dem.pending := some (.pos 20) },
      by decide +kernel⟩,
    ⟨.one, stK { restChannel with state := .reversing, drv.reversalTimer := some 0 }, by decide +kernel⟩,
    ⟨.one, stK { driving .closing 500 with
        drv.jog := some ⟨.opening, 100, some 0⟩, src.weather := true, dem.win := some (.weather, .pos 0), dem.movement := some
          ⟨.ordinary, 0, some .weather⟩ },
      by decide +kernel⟩,
    ⟨.one, stK { driving .opening 500 with
        drv.jog := some ⟨.opening, 100, some 0⟩, dem.win := some (.jog, .pos 1000), dem.movement := some ⟨.ordinary, 1000, some
          .jog⟩ },
      by decide +kernel⟩,
    ⟨.one, stK { referencing with
        drv.jog := some ⟨.opening, 100, some 0⟩, dem.win := some (.jog, .pos 1000), dem.movement := some ⟨.reference, 0, some
          .jog⟩ },
      by decide +kernel⟩,
    ⟨.one, stK { restChannel with dem.refTimer := some 0 }, by decide +kernel⟩,
    ⟨.one, stK { driving .opening 500 with dem.refTimer := some 0 }, by decide +kernel⟩⟩

/-- Witness of the case of Obligations.PausesJogsReferences in which the pending target calls for no movement. -/
theorem witness_PausesJogsReferences_case :
    ∃ (c : Chan) (src : Source) (n : Nat) (p : Target) (s : State),
      (s.chan c).state = .reversing ∧ (s.chan c).drv.reversalTimer.isSome = true ∧ s.supplyVeto = false ∧
      (s.chan c).drv.referenced = true ∧ (s.chan c).dem.refDue = false ∧ (s.chan c).dem.win = some (src, p) ∧
      (s.chan c).dem.pending = some (.pos n) ∧ s.bud.isoOpen = false ∧
      (s.bud.own.state ≠ .deferred ∨ s.bud.own.channels.get c = false) ∧ s.callsMovement c n = false :=
  ⟨.one, .localKey, 19, .pos 19, stK { restChannel with
        state := .reversing, drv.reversalTimer := some 0, dem.win := some (.localKey, .pos 19), dem.pending := some (.pos 19) },
      by decide +kernel⟩

/-- Witness of Obligations.DutyAndHold, clause by clause. -/
theorem witness_DutyAndHold :
    (∃ (c : Chan) (s : State),
      (s.chan c).lim.window.isSome = true ∧ (s.chan c).lim.throttled = false) ∧
    (∃ (c : Chan) (s : State),
      (s.chan c).lim.throttled = false ∧
      (100 ≤ (s.chan c).lim.tickAcc ∨ ((s.chan c).driven = true ∧ ((s.chan c).lim.window ≠ some (s.fields.dutyWindow * 1000) ∨
        (s.chan c).lim.tickAcc ≠ 0))) ∧ (s.chan c).lim.runCounter + 1 < s.fields.dutyWindow * 10 * s.fields.duty / 100) ∧
    (∃ (c : Chan) (s : State),
      ((s.chan c).lim.throttled = true ∨ ((s.chan c).lim.tickAcc < 100 ∧ (s.chan c).driven = false) ∨ ((s.chan c).lim.tickAcc =
        0 ∧ (s.chan c).lim.window = some (s.fields.dutyWindow * 1000)))) ∧
    (∃ (c : Chan) (s : State),
      (s.chan c).state = .running ∧ (s.chan c).lim.throttled = false ∧
      ((s.chan c).lim.window ≠ some (s.fields.dutyWindow * 1000) ∨ (s.chan c).lim.tickAcc ≠ 0) ∧
      s.fields.dutyWindow * 10 * s.fields.duty / 100 ≤ (s.chan c).lim.runCounter + 1) ∧
    (∃ (c : Chan) (s : State),
      (s.chan c).lim.throttled = true ∧ (s.chan c).lim.throttleTimer.isSome = true ∧ (s.chan c).state ≠ .absent ∧
      (s.chan c).dem.refDue = false ∧ (s.chan c).lim.veto = true) ∧
    (∃ (s : State),
      (∀ c, (s.chan c).state ≠ .referencing) ∧ s.detected = true ∧ s.lim.hold = false) ∧
    (∃ (s : State),
      s.lim.hold = true ∧ s.lim.holdTimer.isSome = true) ∧
    (∃ (s : State),
      (∀ c, (s.chan c).dem.refDue = false) ∧ (∀ c, (s.chan c).state ≠ .referencing ∨ (s.chan c).lim.veto = true) ∧
      s.lim.hold = true ∧ s.lim.holdTimer.isSome = true) ∧
    (∃ (c : Chan) (s : State),
      (s.chan c).state = .running ∧ (s.chan c).lim.throttled = false ∧ (s.chan c).lim.veto = false ∧
      ((s.chan c).lim.window ≠ some (s.fields.dutyWindow * 1000) ∨ (s.chan c).lim.tickAcc ≠ 0) ∧ s.detected = true ∧
      s.fields.dutyWindow * 10 * s.fields.duty / 100 ≤ (s.chan c).lim.runCounter + 1 ∧ s.supplyVeto = false ∧
      (s.chan c).src.override = none ∧ (s.chan c).src.fire = none ∧ (s.chan c).src.weather = false ∧
      (s.chan c).dem.win.isSome = true ∧ (s.chan c).dem.refDue = false) ∧
    (∃ (cmd : Instr) (c : Chan) (l : ChLimit) (w : Winner) (s : State),
      s.limitBegins c l cmd ∧ s.referenceMeets c w ∧ (w = State.winner (s.setChan c { s.chan c with lim := l }) c) ∧
      s.supplyVeto = false ∧ s.noStart c) ∧
    (∃ (cmd : Instr) (c : Chan) (l : ChLimit) (w : Winner) (s : State),
      s.limitEnds c l cmd ∧ (w = State.winner (s.setChan c { s.chan c with lim := l }) c) ∧ s.supplyVeto = false ∧
      s.detected = true ∧ s.noStart c ∧ (s.chan c).state = .idle ∧ (s.chan c).dem.refDue = true ∧
      (∀ x ∈ w, x.1 = .localKey ∨ x.1 = .ventilate ∨ x.1 = .jog)) :=
  ⟨⟨.one, stK { restChannel with lim.window := some 0 }, by decide +kernel⟩,
    ⟨.one, stK { driving .opening 0 with lim.window := some 599900, lim.runCounter := 1798 }, by decide +kernel⟩,
    ⟨.one, stK restChannel, by decide +kernel⟩,
    ⟨.one, stK { driving .opening 0 with lim.window := some 599900, lim.runCounter := 1799 }, by decide +kernel⟩,
    ⟨.one, stK { restChannel with lim.throttled := true, lim.throttleTimer := some 0, lim.veto := true },
      by decide +kernel⟩,
    ⟨st, all4 (by decide +kernel), by decide +kernel⟩,
    ⟨{ st with lim := ⟨true, some 0⟩ }, by decide +kernel⟩,
    ⟨{ st with lim := ⟨true, some 0⟩ }, all4 (by decide +kernel), all4 (by decide +kernel), by decide +kernel⟩,
    ⟨.one, stK { driving .opening 0 with
        lim.window := some 599900, lim.runCounter := 1799, src.localKey := some 1000, dem.win := some (.localKey, .pos 1000) },
      by decide +kernel⟩,
    ⟨.driverFlagSet, .one, { restChannel.lim with
        veto := true }, none, stK { restChannel with
        state := .waiting, src.localKey := some 0, dem.win := some (.localKey, .pos 0), dem.movement := some ⟨.reference, 0,
          some .localKey⟩, drv.referenced := true },
      ⟨by decide +kernel, .inl (by decide +kernel)⟩, ⟨by decide +kernel, .inl (by decide +kernel)⟩, by decide +kernel⟩,
    ⟨.thermalHoldEnd false, .one, restChannel.lim, none, { stK { restChannel with
        dem.refDue := true, lim.veto := true } with
        lim := ⟨true, some 0⟩ },
      ⟨by decide +kernel, .inl (by decide +kernel)⟩, by decide +kernel⟩⟩

/-- Witness of the cases of the last two clauses of Obligations.DutyAndHold: a veto stops a reference run, withdraws the reference
of an UNREFERENCED channel, replaces it by the closing that FIRE asks for, and gives way to the opening that FIRE asks for;
and a due reference starts as the throttle ends. -/
theorem witness_DutyAndHold_references :
    (∃ (cmd : Instr) (c : Chan) (l : ChLimit) (w : Winner) (s : State),
      s.limitBegins c l cmd ∧ s.referenceMeets c w ∧ (w = State.winner (s.setChan c { s.chan c with lim := l }) c) ∧
      s.supplyVeto = false ∧ s.noStart c ∧ (s.chan c).state = .referencing) ∧
    (∃ (cmd : Instr) (c : Chan) (l : ChLimit) (w : Winner) (s : State),
      s.limitBegins c l cmd ∧ s.referenceMeets c w ∧ (w = State.winner (s.setChan c { s.chan c with lim := l }) c) ∧
      s.supplyVeto = false ∧ s.noStart c ∧ (s.chan c).drv.referenced = false ∧ w = none) ∧
    (∃ (cmd : Instr) (c : Chan) (l : ChLimit) (w : Winner) (s : State),
      s.limitBegins c l cmd ∧ s.referenceMeets c w ∧ (w = State.winner (s.setChan c { s.chan c with lim := l }) c) ∧
      s.supplyVeto = false ∧ s.noStart c ∧ (s.chan c).drv.referenced = false ∧ w = some (.fire, .pos 0)) ∧
    (∃ (cmd : Instr) (c : Chan) (l : ChLimit) (w : Winner) (s : State),
      s.limitBegins c l cmd ∧ s.referenceMeets c w ∧ (w = State.winner (s.setChan c { s.chan c with lim := l }) c) ∧
      s.supplyVeto = false ∧ s.noStart c ∧ w = some (.fire, .pos 1000) ∧ s.callsMovement c 1000 = true) ∧
    (∃ (cmd : Instr) (c : Chan) (l : ChLimit) (w : Winner) (s : State),
      s.limitEnds c l cmd ∧ (w = State.winner (s.setChan c { s.chan c with lim := l }) c) ∧ s.supplyVeto = false ∧
      s.detected = true ∧ s.noStart c ∧ (s.chan c).state = .idle ∧ (s.chan c).dem.refDue = true ∧
      (∀ x ∈ w, x.1 = .localKey ∨ x.1 = .ventilate ∨ x.1 = .jog) ∧ w = some (.localKey, .pos 1000)) :=
  ⟨⟨.runTick .one, .one, ⟨none, 0, 1800, true, some 1200000, true⟩, none, stK { referencing with
        dem.win := some (.localKey, .pos 0), src.localKey := some 0, lim.window := some 599900, lim.runCounter := 1799 },
      ⟨by decide +kernel, .inr (by decide +kernel)⟩, ⟨by decide +kernel, .inr ⟨by decide +kernel, .inl rfl⟩⟩, by decide +kernel⟩,
    ⟨.driverFlagSet, .one, { restChannel.lim with
        veto := true }, none, stK { restChannel with
        state := .waiting, src.localKey := some 0, dem.win := some (.localKey, .pos 0), dem.movement := some ⟨.reference, 0,
          some .localKey⟩, drv.referenced := false },
      ⟨by decide +kernel, .inl (by decide +kernel)⟩, ⟨by decide +kernel, .inr ⟨by decide +kernel, .inl rfl⟩⟩, by decide +kernel⟩,
    ⟨.driverFlagSet, .one, { restChannel.lim with
        veto := true }, some (.fire, .pos 0), stK { restChannel with
        state := .waiting, src.localKey := some 0, dem.win := some (.fire, .pos 0), dem.movement := some ⟨.reference, 0, some
          .localKey⟩, drv.referenced := false, src.fire := some (.pos 0) },
      ⟨by decide +kernel, .inl (by decide +kernel)⟩, ⟨by decide +kernel, .inr ⟨by decide +kernel, .inr ⟨_, rfl⟩⟩⟩,
        by decide +kernel⟩,
    ⟨.driverFlagSet, .one, { restChannel.lim with
        veto := true }, some (.fire, .pos 1000), stK { restChannel with
        state := .waiting, src.localKey := some 0, dem.win := some (.fire, .pos 1000), dem.movement := some ⟨.reference, 0, some
          .localKey⟩, drv.referenced := true, src.fire := some (.pos 1000) },
      ⟨by decide +kernel, .inl (by decide +kernel)⟩, ⟨by decide +kernel, .inl (by decide +kernel)⟩, by decide +kernel⟩,
    ⟨.throttleEnd .one, .one, ⟨some 600000, 0, 0, false, none, false⟩, some (.localKey, .pos 1000), stK { restChannel with
        src.localKey := some 1000, drv.count := 5000, dem.refDue := true, lim := ⟨none, 0, 1800, true, some 0, true⟩ },
      ⟨by decide +kernel, .inr (by decide +kernel)⟩, by decide +kernel⟩⟩

/-- Witness of the cases of Obligations.DutyAndHold: a tick complete at the instant of a stop, one at the instant at which a window
begins, and one of a throttled channel. -/
theorem witness_DutyAndHold_cases :
    (∃ (c : Chan) (s : State),
      (s.chan c).lim.throttled = false ∧
      (100 ≤ (s.chan c).lim.tickAcc ∨ ((s.chan c).driven = true ∧ ((s.chan c).lim.window ≠ some (s.fields.dutyWindow * 1000) ∨
        (s.chan c).lim.tickAcc ≠ 0))) ∧ (s.chan c).lim.runCounter + 1 < s.fields.dutyWindow * 10 * s.fields.duty / 100 ∧
      (s.chan c).driven = false) ∧
    (∃ (c : Chan) (s : State),
      ((s.chan c).lim.throttled = true ∨ ((s.chan c).lim.tickAcc < 100 ∧ (s.chan c).driven = false) ∨ ((s.chan c).lim.tickAcc =
        0 ∧ (s.chan c).lim.window = some (s.fields.dutyWindow * 1000))) ∧ (s.chan c).driven = true ∧
      (s.chan c).lim.throttled = false) ∧
    (∃ (c : Chan) (s : State),
      ((s.chan c).lim.throttled = true ∨ ((s.chan c).lim.tickAcc < 100 ∧ (s.chan c).driven = false) ∨ ((s.chan c).lim.tickAcc =
        0 ∧ (s.chan c).lim.window = some (s.fields.dutyWindow * 1000))) ∧ (s.chan c).lim.throttled = true) :=
  ⟨⟨.one, stK { restChannel with lim.window := some 599900, lim.tickAcc := 100 }, by decide +kernel⟩,
    ⟨.one, stK { driving .opening 0 with lim.window := some 600000 }, by decide +kernel⟩,
    ⟨.one, stK { driving .opening 0 with lim.window := none, lim.throttled := true, lim.throttleTimer := some 5 },
      by decide +kernel⟩⟩

/-- Witness of Obligations.SupplyAndLamp, clause by clause. -/
theorem witness_SupplyAndLamp :
    (∃ (_decivolts : Nat) (s : State),
      s.detected = true) ∧
    (∃ (s : State),
      s.sup.low = false ∧ s.sup.high = false ∧ s.sup.lowEntry.isSome = true ∧ s.svc.programming = none) ∧
    (∃ (s : State),
      s.sup.low = false ∧ s.sup.high = false ∧ s.sup.highEntry.isSome = true) ∧
    (∃ (s : State),
      s.sup.low = true ∧ s.sup.high = false ∧ s.sup.highEntry.isSome = true) ∧
    (∃ (s : State),
      s.sup.low = false ∧ s.sup.high = true ∧ s.sup.lowEntry.isSome = true ∧ s.svc.programming = none) ∧
    (∃ (s : State),
      s.sup.low = true ∧ s.sup.high = true ∧ s.sup.highRecovery.isSome = true) ∧
    (∃ (s : State),
      s.sup.low = true ∧ s.sup.high = true ∧ s.sup.lowRecovery.isSome = true) ∧
    (∃ (s : State),
      (∀ c, (s.chan c).state ≠ .absent → (s.chan c).lim.veto = false ∧ (s.chan c).dem.refDue = false ∧ (s.chan c).drv.retryHeld
        = false ∧ (s.chan c).dem.standing = some (State.winner { s with
          sup.low := false } c)) ∧ s.sup.low = true ∧ s.sup.high = false ∧ s.sup.lowRecovery.isSome = true) ∧
    (∃ (s : State),
      (∀ c, (s.chan c).state ≠ .absent → (s.chan c).lim.veto = false ∧ (s.chan c).dem.refDue = false ∧ (s.chan c).drv.retryHeld
        = false ∧ (s.chan c).dem.standing = some (State.winner { s with
          sup.high := false } c)) ∧ s.sup.low = false ∧ s.sup.high = true ∧ s.sup.highRecovery.isSome = true) ∧
    (∃ (cmd : Instr) (v s : State),
      s.vetoEnds v cmd ∧
      (∀ c, (s.chan c).state ≠ .absent → (s.chan c).dem.standing.isSome = true ∧ ((s.chan c).lim.veto = true → (s.chan c).state
        ≠ .referencing ∧ (s.chan c).dem.movement.map Movement.kind ≠ some .reference) ∧ ((s.chan c).dem.standing = some
        (v.winner c) → (s.chan c).drv.retryHeld = false ∧ ((s.chan c).state ≠ .idle ∨ (s.chan c).dem.refDue = false)))) ∧
    (∃ (cmd : Instr) (c : Chan) (w : Winner) (v s : State),
      s.vetoEnds v cmd ∧ s.referenceMeets c w ∧ w = v.winner c ∧ (s.chan c).state = .waiting ∧ (s.chan c).lim.veto = true ∧
      (s.chan c).dem.standing.isSome = true ∧ s.noStart c) ∧
    (∃ (cmd : Instr) (c : Chan) (src : Source) (n : Nat) (v s : State),
      s.vetoEnds v cmd ∧ v.winner c = some (src, .pos n) ∧ (src = .override ∨ src = .fire) ∧
      (s.chan c).dem.standing = some (v.winner c) ∧ (s.chan c).state = .faulted ∧ (s.chan c).drv.retryHeld = true ∧
      ((s.chan c).drv.referenced = true ∨ n = 0 ∨ (n = 1000 ∧ (s.chan c).drv.restEnd ≠ some .openEnd)) ∧ s.noStart c) ∧
    (∃ (cmd : Instr) (c : Chan) (v s : State),
      s.vetoEnds v cmd ∧ (s.chan c).dem.standing = some (v.winner c) ∧ (s.chan c).state = .idle ∧ (s.chan c).dem.refDue = true ∧
      (s.chan c).lim.veto = false ∧ (∀ w ∈ v.winner c, w.1 = .localKey ∨ w.1 = .ventilate ∨ w.1 = .jog) ∧ s.noStart c) ∧
    (∃ (s : State),
      s.sup.lamp.timer.isSome = true ∧ s.sup.lamp.pattern ≠ .off ∧ s.sup.lamp.pattern ≠ .steady) :=
  ⟨⟨200, st, by decide +kernel⟩,
    ⟨{ st with sup.lowEntry := some 0 }, by decide +kernel⟩,
    ⟨{ st with sup.highEntry := some 0 }, by decide +kernel⟩,
    ⟨{ st with sup.low := true, sup.highEntry := some 0 }, by decide +kernel⟩,
    ⟨{ st with sup.high := true, sup.lowEntry := some 0 }, by decide +kernel⟩,
    ⟨{ st with sup.low := true, sup.high := true, sup.highRecovery := some 0 }, by decide +kernel⟩,
    ⟨{ st with sup.low := true, sup.high := true, sup.lowRecovery := some 0 }, by decide +kernel⟩,
    ⟨{ st with sup.low := true, sup.lowRecovery := some 0, ch := Four.all { restChannel with dem.standing := some none } },
      by intro c; cases c <;> decide +kernel, by decide +kernel⟩,
    ⟨{ st with sup.high := true, sup.highRecovery := some 0, ch := Four.all { restChannel with dem.standing := some none } },
      by intro c; cases c <;> decide +kernel, by decide +kernel⟩,
    ⟨.supplyLowClear, _, { stK { restChannel with
        src.localKey := some 1000, dem.standing := some none } with
        ch.two.dem.standing := some none, ch.three.dem.standing := some none, ch.four.dem.standing := some none, sup.low :=
          true, sup.lowRecovery := some 0 },
      ⟨rfl, .inl ⟨rfl, rfl, rfl, rfl, rfl⟩⟩, by intro c; cases c <;> decide +kernel⟩,
    ⟨.supplyLowClear, .one, none, _, { stK { restChannel with
        state := .waiting, src.localKey := some 0, dem.movement := some ⟨.reference, 0, some .localKey⟩, drv.referenced := true,
          dem.standing := some (some (.localKey, .pos 0)), lim.veto := true, lim.throttled := true } with
        ch.two.dem.standing := some none, ch.three.dem.standing := some none, ch.four.dem.standing := some none, sup.low :=
          true, sup.lowRecovery := some 0 },
      ⟨rfl, .inl ⟨rfl, rfl, rfl, rfl, rfl⟩⟩, ⟨by decide +kernel, .inl (by decide +kernel)⟩, by decide +kernel⟩,
    ⟨.supplyLowClear, .one, .fire, 1000, _, { stK { restChannel with
        state := .faulted, src.fire := some (.pos 1000), dem.standing := some (some (.fire, .pos 1000)), drv.retryHeld := true }
          with
        ch.two.dem.standing := some none, ch.three.dem.standing := some none, ch.four.dem.standing := some none, sup.low :=
          true, sup.lowRecovery := some 0 },
      ⟨rfl, .inl ⟨rfl, rfl, rfl, rfl, rfl⟩⟩, by decide +kernel⟩,
    ⟨.supplyLowClear, .one, _, { stK { restChannel with
        dem.standing := some none, dem.refDue := true } with
        ch.two.dem.standing := some none, ch.three.dem.standing := some none, ch.four.dem.standing := some none, sup.low :=
          true, sup.lowRecovery := some 0 },
      ⟨rfl, .inl ⟨rfl, rfl, rfl, rfl, rfl⟩⟩, by decide +kernel⟩,
    ⟨{ st with sup.lamp := ⟨.double, 3, false, some 0⟩ }, by decide +kernel⟩⟩

/-- Witness of the cases of Obligations.SupplyAndLamp, for the end of the veto: a winner that differs on a channel with a held
retry; a reference withdrawn, and replaced, on an UNREFERENCED channel; a held retry without a movement, and on an
UNREFERENCED channel; and a due reference under a winner of the local key. -/
theorem witness_SupplyAndLamp_cases :
    (∃ (cmd : Instr) (v s : State),
      s.vetoEnds v cmd ∧
      (∀ c, (s.chan c).state ≠ .absent → (s.chan c).dem.standing.isSome = true ∧ ((s.chan c).lim.veto = true → (s.chan c).state
        ≠ .referencing ∧ (s.chan c).dem.movement.map Movement.kind ≠ some .reference) ∧ ((s.chan c).dem.standing = some
        (v.winner c) → (s.chan c).drv.retryHeld = false ∧ ((s.chan c).state ≠ .idle ∨ (s.chan c).dem.refDue = false))) ∧
      (s.chan .one).drv.retryHeld = true ∧ (s.chan .one).dem.standing ≠ some (v.winner .one)) ∧
    (∃ (cmd : Instr) (c : Chan) (w : Winner) (v s : State),
      s.vetoEnds v cmd ∧ s.referenceMeets c w ∧ w = v.winner c ∧ (s.chan c).state = .waiting ∧ (s.chan c).lim.veto = true ∧
      (s.chan c).dem.standing.isSome = true ∧ s.noStart c ∧ w = none ∧ (s.chan c).drv.referenced = false) ∧
    (∃ (cmd : Instr) (c : Chan) (w : Winner) (v s : State),
      s.vetoEnds v cmd ∧ s.referenceMeets c w ∧ w = v.winner c ∧ (s.chan c).state = .waiting ∧ (s.chan c).lim.veto = true ∧
      (s.chan c).dem.standing.isSome = true ∧ s.noStart c ∧ w = some (.fire, .pos 0)) ∧
    (∃ (cmd : Instr) (c : Chan) (src : Source) (n : Nat) (v s : State),
      s.vetoEnds v cmd ∧ v.winner c = some (src, .pos n) ∧ (src = .override ∨ src = .fire) ∧
      (s.chan c).dem.standing = some (v.winner c) ∧ (s.chan c).state = .faulted ∧ (s.chan c).drv.retryHeld = true ∧
      ((s.chan c).drv.referenced = true ∨ n = 0 ∨ (n = 1000 ∧ (s.chan c).drv.restEnd ≠ some .openEnd)) ∧ s.noStart c ∧
      (s.chan c).drv.referenced = true ∧ s.callsMovement c n = false) ∧
    (∃ (cmd : Instr) (c : Chan) (src : Source) (n : Nat) (v s : State),
      s.vetoEnds v cmd ∧ v.winner c = some (src, .pos n) ∧ (src = .override ∨ src = .fire) ∧
      (s.chan c).dem.standing = some (v.winner c) ∧ (s.chan c).state = .faulted ∧ (s.chan c).drv.retryHeld = true ∧
      ((s.chan c).drv.referenced = true ∨ n = 0 ∨ (n = 1000 ∧ (s.chan c).drv.restEnd ≠ some .openEnd)) ∧ s.noStart c ∧
      (s.chan c).drv.referenced = false ∧ n = 1000) ∧
    (∃ (cmd : Instr) (c : Chan) (src : Source) (n : Nat) (v s : State),
      s.vetoEnds v cmd ∧ v.winner c = some (src, .pos n) ∧ (src = .override ∨ src = .fire) ∧
      (s.chan c).dem.standing = some (v.winner c) ∧ (s.chan c).state = .faulted ∧ (s.chan c).drv.retryHeld = true ∧
      ((s.chan c).drv.referenced = true ∨ n = 0 ∨ (n = 1000 ∧ (s.chan c).drv.restEnd ≠ some .openEnd)) ∧ s.noStart c ∧
      (s.chan c).drv.referenced = false ∧ n = 0) ∧
    (∃ (cmd : Instr) (c : Chan) (v s : State),
      s.vetoEnds v cmd ∧ (s.chan c).dem.standing = some (v.winner c) ∧ (s.chan c).state = .idle ∧ (s.chan c).dem.refDue = true ∧
      (s.chan c).lim.veto = false ∧ (∀ w ∈ v.winner c, w.1 = .localKey ∨ w.1 = .ventilate ∨ w.1 = .jog) ∧ s.noStart c ∧
      v.winner c = some (.localKey, .pos 1000)) :=
  ⟨⟨.supplyHighClear, _, { stK { restChannel with
        state := .faulted, drv.retryHeld := true, src.fire := some (.pos 0), drv.count := 900, dem.standing := some (some
          (.localKey, .pos 1000)), src.localKey := some 1000 } with
        ch.two.dem.standing := some none, ch.three.dem.standing := some none, ch.four.dem.standing := some none, sup.high :=
          true, sup.highRecovery := some 0 },
      ⟨rfl, .inr ⟨rfl, rfl, rfl, rfl, rfl⟩⟩, by intro c; cases c <;> decide +kernel, by decide +kernel⟩,
    ⟨.supplyHighClear, .one, none, _, { stK { restChannel with
        state := .waiting, src.localKey := some 0, dem.movement := some ⟨.reference, 0, some .localKey⟩, drv.referenced :=
          false, dem.standing := some (some (.localKey, .pos 0)), lim.veto := true, lim.throttled := true } with
        ch.two.dem.standing := some none, ch.three.dem.standing := some none, ch.four.dem.standing := some none, sup.high :=
          true, sup.highRecovery := some 0 },
      ⟨rfl, .inr ⟨rfl, rfl, rfl, rfl, rfl⟩⟩, ⟨by decide +kernel, .inr ⟨by decide +kernel, .inl rfl⟩⟩, by decide +kernel⟩,
    ⟨.supplyHighClear, .one, some (.fire, .pos 0), _, { stK { restChannel with
        state := .waiting, src.localKey := some 0, dem.movement := some ⟨.reference, 0, some .localKey⟩, drv.referenced :=
          false, src.fire := some (.pos 0), dem.standing := some (some (.localKey, .pos 0)), lim.veto := true, lim.throttled :=
          true } with
        ch.two.dem.standing := some none, ch.three.dem.standing := some none, ch.four.dem.standing := some none, sup.high :=
          true, sup.highRecovery := some 0 },
      ⟨rfl, .inr ⟨rfl, rfl, rfl, rfl, rfl⟩⟩, ⟨by decide +kernel, .inr ⟨by decide +kernel, .inr ⟨_, rfl⟩⟩⟩, by decide +kernel⟩,
    ⟨.supplyLowClear, .one, .fire, 0, _, { stK { restChannel with
        state := .faulted, src.fire := some (.pos 0), dem.standing := some (some (.fire, .pos 0)), drv.retryHeld := true,
          drv.restEnd := some .closedEnd } with
        ch.two.dem.standing := some none, ch.three.dem.standing := some none, ch.four.dem.standing := some none, sup.low :=
          true, sup.lowRecovery := some 0 },
      ⟨rfl, .inl ⟨rfl, rfl, rfl, rfl, rfl⟩⟩, by decide +kernel⟩,
    ⟨.supplyHighClear, .one, .fire, 1000, _, { stK { restChannel with
        state := .faulted, src.fire := some (.pos 1000), dem.standing := some (some (.fire, .pos 1000)), drv.retryHeld := true,
          drv.referenced := false } with
        ch.two.dem.standing := some none, ch.three.dem.standing := some none, ch.four.dem.standing := some none, sup.high :=
          true, sup.highRecovery := some 0 },
      ⟨rfl, .inr ⟨rfl, rfl, rfl, rfl, rfl⟩⟩, by decide +kernel⟩,
    ⟨.supplyHighClear, .one, .fire, 0, _, { stK { restChannel with
        state := .faulted, src.fire := some (.pos 0), dem.standing := some (some (.fire, .pos 0)), drv.retryHeld := true,
          drv.referenced := false } with
        ch.two.dem.standing := some none, ch.three.dem.standing := some none, ch.four.dem.standing := some none, sup.high :=
          true, sup.highRecovery := some 0 },
      ⟨rfl, .inr ⟨rfl, rfl, rfl, rfl, rfl⟩⟩, by decide +kernel⟩,
    ⟨.supplyHighClear, .one, _, { stK { restChannel with
        src.localKey := some 1000, drv.count := 5000, dem.standing := some (some (.localKey, .pos 1000)), dem.refDue := true }
          with
        ch.two.dem.standing := some none, ch.three.dem.standing := some none, ch.four.dem.standing := some none, sup.high :=
          true, sup.highRecovery := some 0 },
      ⟨rfl, .inr ⟨rfl, rfl, rfl, rfl, rfl⟩⟩, by decide +kernel⟩⟩

/-- Witness of the cases of Obligations.SupplyAndLamp and Obligations.SpanReached in which a CLAIM waits with no live claim, and in which
one is in flight. -/
theorem witness_waiting_claims :
    (∃ s : State, s.sup.low = false ∧ s.sup.high = false ∧ s.sup.lowEntry.isSome = true ∧ s.svc.programming = none ∧
      s.bud.own.state = .none ∧ (∃ e ∈ s.line.queue, e.notice.kind = .claim) ∧ s.line.flight = none) ∧
    (∃ s : State, s.sup.low = false ∧ s.sup.high = false ∧ s.sup.highEntry.isSome = true ∧
      (∃ e ∈ s.line.queue, e.notice.kind = .claim) ∧ ∃ f ∈ s.line.flight, f.content.kind = .claim) ∧
    (∃ s : State, s.StartRule ∧ s.longSpan = true ∧ s.line.isolation = false ∧ s.fire.pulseTimer = none ∧
      s.bud.own.state = .none ∧ (∃ e ∈ s.line.queue, e.notice.kind = .claim) ∧ s.line.flight = none) :=
  ⟨⟨{ staleClaim with sup.lowEntry := some 0 }, by decide +kernel⟩,
    ⟨{ staleClaim with
        sup.highEntry := some 0, line.flight := some ⟨.claim ⟨true, false, false, false⟩ 40 false, [], false⟩ },
      by decide +kernel⟩,
    ⟨{ staleClaim with line.receiver := .recovering, line.span := some 55, line.spanLong := true },
      startRule_of (by decide), by decide +kernel⟩⟩

/-- Witness of Obligations.ServiceReplies, clause by clause. -/
theorem witness_ServiceReplies :
    (∃ (index : Byte) (s : State),
      s.sup.mode = .service ∧ s.svc.programming = none ∧ index.toNat ≤ 63) ∧
    (∃ (index : Byte) (s : State),
      s.sup.mode = .service ∧ s.svc.programming = none ∧ index.toNat ≤ 63) ∧
    (∃ (index : Byte) (_value : Word) (s : State),
      s.sup.mode = .service ∧ s.svc.programming = none ∧ index.toNat ≤ 63) ∧
    (∃ (s : State),
      s.sup.mode = .service ∧ s.svc.programming = none) ∧
    (∃ (levels : List Bool),
      (levels.length ≠ 10 ∨ levels[0]? = some true ∨ levels[9]? = some false)) ∧
    (∃ (bay : Byte) (s : State),
      s.sup.mode = .service ∧ s.svc.programming = none ∧ 1 ≤ bay.toNat ∧ bay.toNat ≤ 32) ∧
    (∃ (r : Instr) (s : State),
      (requestOf r).isSome = true ∧ s.sup.mode = .service ∧ s.svc.programming.isSome = true) ∧
    (∃ (r : Instr) (s : State),
      (requestOf r).isSome = true ∧ fieldsInRange r = false ∧ s.sup.mode = .service ∧ s.svc.programming = none) ∧
    (∃ (r : Instr) (s : State),
      ((requestOf r).isSome = true ∨ (∃ bytes, r = .badCommandRequest bytes)) ∧ s.sup.mode ≠ .service) :=
  ⟨⟨63#8, { st with sup.mode := .service }, by decide +kernel⟩,
    ⟨63#8, { st with sup.mode := .service }, by decide +kernel⟩,
    ⟨63#8, 0xFFFF#16, { st with sup.mode := .service }, by decide +kernel⟩,
    ⟨{ st with sup.mode := .service }, by decide +kernel⟩,
    ⟨[false, true], by decide +kernel⟩,
    ⟨32#8, { st with
        sup.mode := .service, peer.entries := [⟨32, 9, true, none, some ⟨⟨some 5, none, none, none⟩, 9, true⟩, none⟩] },
      by decide +kernel⟩,
    ⟨.program, { st with sup.mode := .service, svc.programming := some 0 }, by decide +kernel⟩,
    ⟨.stageWord 64#8 0#16, { st with sup.mode := .service }, by decide +kernel⟩,
    ⟨.readState, st, .inl rfl, by decide +kernel⟩⟩

/-- Witness of Obligations.Programming, clause by clause. -/
theorem witness_Programming :
    (∃ (s : State),
      s.sup.mode = .service ∧ s.svc.programming = none ∧ signature s.svc.staging = s.svc.staging.getD 63 0#16) ∧
    (∃ (s : State),
      s.sup.mode = .service ∧ s.svc.programming = none ∧ signature s.svc.staging ≠ s.svc.staging.getD 63 0#16) ∧
    (∃ (i : Nat) (s : State),
      s.svc.programming = some i ∧ i < 63) ∧
    (∃ (s : State),
      s.svc.programming = some 63) ∧
    (∃ (i : Nat) (s : State),
      s.svc.programming = some i ∧ i < 64 ∧ storeWf s.cfg.store = true ∧ s.sup.low = false ∧ s.sup.lowEntry.isSome = true) :=
  ⟨⟨{ st with sup.mode := .service, svc.staging := imageOk },
      by decide +kernel, by decide +kernel, test_signature_of_zeros _⟩,
    ⟨{ st with sup.mode := .service, svc.staging := imageOk.set 63 0#16 },
      by decide +kernel, by decide +kernel,
      by show signature (List.replicate 63 0#16 ++ [0#16]) ≠ 0#16; rw [test_signature_of_zeros]; decide⟩,
    ⟨62, { st with sup.mode := .service, svc.programming := some 62 }, by decide +kernel⟩,
    ⟨{ st with sup.mode := .service, svc.programming := some 63 }, by decide +kernel⟩,
    ⟨63, { st with
          sup.mode := .service
          svc.programming := some 63
          sup.lowEntry := some 0 }, by decide +kernel⟩⟩

/-- Witness of Obligations.ServiceReplies, request by request: each of the eight is a request, and six of them have a field that can
be out of range. -/
theorem witness_ServiceReplies_requests :
    (∀ r ∈ [Instr.readWord 0#8, .readStage 0#8, .stageWord 0#8 0#16, .program, .readState, .jog 1#8 0#8 100#16, .stop 1#8,
      .readPeer 1#8], (requestOf r).isSome = true ∧ fieldsInRange r = true) ∧
    (∀ r ∈ [Instr.readWord 64#8, .readStage 64#8, .stageWord 64#8 0#16, .jog 0#8 0#8 100#16, .jog 5#8 0#8 100#16,
      .jog 1#8 2#8 100#16, .jog 1#8 1#8 99#16, .jog 4#8 1#8 10001#16, .stop 0#8, .stop 5#8, .readPeer 0#8, .readPeer 33#8],
      (requestOf r).isSome = true ∧ fieldsInRange r = false) := by decide

/-- Witness of Obligations.JogsAndRequests, clause by clause. -/
theorem witness_JogsAndRequests :
    (∃ (channel direction : Byte) (time : Word) (c : Chan) (s : State),
      s.sup.mode = .service ∧ s.svc.programming = none ∧ c.number = channel.toNat ∧ direction.toNat ≤ 1 ∧ 100 ≤ time.toNat ∧
      time.toNat ≤ 10000 ∧ (s.chan c).state ≠ .absent ∧ (s.chan c).drv.jog = none ∧
      (s.chan c).drv.restEnd ≠ some (if direction.toNat = 1 then .openEnd else .closedEnd)) ∧
    (∃ (channel direction : Byte) (time : Word) (c : Chan) (s : State),
      s.sup.mode = .service ∧ s.svc.programming = none ∧ c.number = channel.toNat ∧ direction.toNat ≤ 1 ∧ 100 ≤ time.toNat ∧
      time.toNat ≤ 10000 ∧ (s.chan c).state = .idle ∧ (s.chan c).drv.jog = none ∧
      (s.chan c).drv.restEnd ≠ some (if direction.toNat = 1 then .openEnd else .closedEnd) ∧ s.detected = true ∧
      (s.chan c).src = ⟨none, none, false, none, none⟩ ∧ (s.chan c).dem.win = none ∧ (s.chan c).lim.veto = false ∧
      s.supplyVeto = false ∧ (s.chan c).dem.refDue = false ∧ s.bud.isoOpen = false) ∧
    (∃ (channel direction : Byte) (time : Word) (s : State),
      s.sup.mode = .service ∧ s.svc.programming = none ∧
      (channel.toNat < 1 ∨ 4 < channel.toNat ∨ 1 < direction.toNat ∨ time.toNat < 100 ∨ 10000 < time.toNat)) ∧
    (∃ (channel : Byte) (c : Chan) (s : State),
      s.sup.mode = .service ∧ s.svc.programming = none ∧ c.number = channel.toNat ∧
      ((s.chan c).drv.jog = none ∨ (s.winner c = (s.chan c).dem.win ∧ (∀ w ∈ s.winner c, w.1 ≠ .jog)))) ∧
    (∃ (channel : Byte) (c : Chan) (s : State),
      s.sup.mode = .service ∧ s.svc.programming = none ∧ c.number = channel.toNat ∧ (s.chan c).drv.jog.isSome = true ∧
      s.detected = true ∧ (s.chan c).state = .running ∧ (s.chan c).src = ⟨none, none, false, none, none⟩ ∧
      (s.chan c).lim.veto = false ∧ s.supplyVeto = false ∧ s.winner c = (s.chan c).dem.win ∧ (s.chan c).dem.refDue = false) ∧
    (∃ (channel : Byte) (c : Chan) (s : State),
      s.sup.mode = .service ∧ s.svc.programming = none ∧ c.number = channel.toNat ∧ (s.chan c).drv.jog.isSome = true ∧
      s.detected = true ∧ (s.chan c).state = .referencing ∧ (s.chan c).dem.win.map Prod.fst = some .jog ∧
      (s.chan c).src = ⟨none, none, false, none, none⟩) ∧
    (∃ (bytes : List Byte) (s : State),
      s.sup.mode = .service ∧ bytes ≠ [] ∧ s.svc.rx.length + bytes.length < 3) ∧
    (∃ (code sum : Byte) (data : List Byte) (s : State),
      s.sup.mode = .service ∧ s.svc.rx = [] ∧ data.length < 256 ∧
      sumsToZero (code :: BitVec.ofNat 8 data.length :: data ++ [sum]) = false) ∧
    (∃ (code : Byte) (data : List Byte) (s : State),
      s.sup.mode = .service ∧ s.svc.rx = [] ∧ data.length < 256 ∧
      (code.toNat = 0 ∨ 8 < code.toNat ∨ data.length ≠ requestLengths.getD (code.toNat - 1) 0)) ∧
    (∃ (r : Instr) (code : Byte) (data : List Byte) (s : State),
      requestOf r = some (code, data) ∧ s.sup.mode = .service ∧ s.svc.rx = []) :=
  ⟨⟨1#8, 1#8, 10000#16, .one, { st with sup.mode := .service }, by decide +kernel⟩,
    ⟨1#8, 0#8, 100#16, .one, { st with sup.mode := .service }, by decide +kernel⟩,
    ⟨4#8, 1#8, 99#16, { st with sup.mode := .service }, by decide +kernel⟩,
    ⟨1#8, .one, { st with sup.mode := .service }, by decide +kernel⟩,
    ⟨1#8, .one, { stK { driving .opening 500 with
        drv.jog := some ⟨.opening, 100, some 0⟩, dem.win := some (.jog, .pos 1000), dem.movement := some ⟨.ordinary, 1000, some
          .jog⟩ } with
        sup.mode := .service },
      by decide +kernel⟩,
    ⟨1#8, .one, { stK { referencing with
        drv.jog := some ⟨.opening, 100, some 0⟩, dem.win := some (.jog, .pos 1000), dem.movement := some ⟨.reference, 0, some
          .jog⟩ } with
        sup.mode := .service },
      by decide +kernel⟩,
    ⟨[1#8, 0#8], { st with sup.mode := .service }, by decide +kernel⟩,
    ⟨1#8, 0#8, [], { st with sup.mode := .service }, by decide +kernel⟩,
    ⟨9#8, [], { st with sup.mode := .service }, by decide +kernel⟩,
    ⟨.readWord 63#8, 1#8, [63#8], { st with sup.mode := .service }, by decide +kernel⟩⟩

/-- Witness of the cases of the bytes of Obligations.JogsAndRequests: a defined code with a wrong length, and one during
programming; and a request that is accepted, one out of range and one during programming. -/
theorem witness_JogsAndRequests_cases :
    (∃ (code : Byte) (data : List Byte) (s : State),
      s.sup.mode = .service ∧ s.svc.rx = [] ∧ data.length < 256 ∧
      (code.toNat = 0 ∨ 8 < code.toNat ∨ data.length ≠ requestLengths.getD (code.toNat - 1) 0) ∧ 1 ≤ code.toNat ∧ code.toNat ≤ 8) ∧
    (∃ (code : Byte) (data : List Byte) (s : State),
      s.sup.mode = .service ∧ s.svc.rx = [] ∧ data.length < 256 ∧
      (code.toNat = 0 ∨ 8 < code.toNat ∨ data.length ≠ requestLengths.getD (code.toNat - 1) 0) ∧ s.svc.programming.isSome = true) ∧
    (∃ (r : Instr) (code : Byte) (data : List Byte) (s : State),
      requestOf r = some (code, data) ∧ s.sup.mode = .service ∧ s.svc.rx = [] ∧ s.svc.programming = none ∧
      fieldsInRange r = true) ∧
    (∃ (r : Instr) (code : Byte) (data : List Byte) (s : State),
      requestOf r = some (code, data) ∧ s.sup.mode = .service ∧ s.svc.rx = [] ∧ fieldsInRange r = false) ∧
    (∃ (r : Instr) (code : Byte) (data : List Byte) (s : State),
      requestOf r = some (code, data) ∧ s.sup.mode = .service ∧ s.svc.rx = [] ∧ s.svc.programming.isSome = true) :=
  ⟨⟨1#8, [], { st with sup.mode := .service }, by decide +kernel⟩,
    ⟨9#8, [], { st with sup.mode := .service, svc.programming := some 0 }, by decide +kernel⟩,
    ⟨.jog 1#8 1#8 500#16, 6#8, [1#8, 1#8, 1#8, 0xF4#8], { st with sup.mode := .service }, by decide +kernel⟩,
    ⟨.readWord 64#8, 1#8, [64#8], { st with sup.mode := .service }, by decide +kernel⟩,
    ⟨.program, 4#8, [], { st with sup.mode := .service, svc.programming := some 0 }, by decide +kernel⟩⟩

end Sys2Proof.Machine.Tests
end

section
/-! STATUS (R29, R30): what its queuing leaves in the schedules and the outgoing queue, and the end of a command at which no channel
waits and no claim is live, where the change-caused STATUS is all that can be queued. -/

namespace Sys2Proof.Machine

open Sys2Proof

/-! ## The change-caused STATUS -/

section
variable {s : State} {last : StatusContent} (hl : s.sched.lastStatus = some last)
  (hn : last.channels.length = s.statusContent.channels.length)
include hl hn

theorem statusOnChange_of_due (hs : s.starting = false) (ht : s.sched.statusSpacing = none)
    (hd : last.reportDue s.statusContent) : s.statusOnChange = s.queueStatus := by
  have hdiff : statusDiffers last s.statusContent = true := (statusDiffers_iff hn).2 hd
  simp [State.statusOnChange, hl, hs, ht, hdiff]

theorem statusOnChange_of_undue (h : s.starting = true ∨ ¬last.reportDue s.statusContent) : s.statusOnChange = s := by
  rcases h with hs | hd
  · simp [State.statusOnChange, hl, hs]
  · have hdiff : statusDiffers last s.statusContent = false :=
      Bool.eq_false_iff.2 fun h => hd ((statusDiffers_iff hn).1 h)
    simp [State.statusOnChange, hl, hdiff]

end

/-! ## The end of a command with nothing to start -/

theorem finish_quiet {s : State} (s0 : State) (hw : ∀ c, (s.chan c).state ≠ .waiting) (hc : s.bud.own.state = .none) :
    s.finish s0 = s.statusOnChange.refreshOutputs := by
  unfold State.finish
  rw [starts_quiet s0 hw hc]

section
variable {s : State} {last : StatusContent} (s0 : State) (hw : ∀ c, (s.chan c).state ≠ .waiting)
  (hc : s.bud.own.state = .none) (hl : s.sched.lastStatus = some last)
  (hn : last.channels.length = s.statusContent.channels.length)
include hw hc hl hn

theorem finish_queues_status (hs : s.starting = false) (ht : s.sched.statusSpacing = none)
    (hd : last.reportDue s.statusContent) :
    (s.finish s0).sched.lastStatus = some s.statusContent ∧ (s.finish s0).sched.statusPeriod = some 5000 ∧
      (s.finish s0).sched.statusSpacing = some 200 ∧
      ∃ e ∈ (s.finish s0).line.queue, e.notice = .status s.statusContent := by
  rw [finish_quiet s0 hw hc, statusOnChange_of_due hl hn hs ht hd]
  exact ⟨rfl, rfl, rfl, queueNotice_mem s (.status s.statusContent)⟩

theorem finish_queues_nothing (h : s.starting = true ∨ ¬last.reportDue s.statusContent) :
    (s.finish s0).sched = s.sched ∧ (s.finish s0).line = s.line := by
  rw [finish_quiet s0 hw hc, statusOnChange_of_undue hl hn h]
  exact ⟨rfl, rfl⟩

end

/-! ## The periodic STATUS -/

/-- The 200 ms spacing that a STATUS starts keeps the end of its own command from queuing another in its place. -/
theorem queueStatus_finish_mem (s s0 : State) :
    ∃ e ∈ (s.queueStatus.finish s0).line.queue, e.notice = .status s.statusContent := by
  obtain ⟨e, he, hen⟩ := queueNotice_mem s (.status s.statusContent)
  have hspacing : s.queueStatus.sched.statusSpacing ≠ none := Option.some_ne_none 200
  obtain ⟨-, -, -, hqueue⟩ := (finish_follows s.queueStatus s0).status.unqueued (.inr (.inl hspacing))
  have hkind : (!otherNotice e) = true := by simp [otherNotice, hen, Notice.kind]
  have hmem : e ∈ (s.queueStatus.finish s0).line.queue.filter (fun e => !otherNotice e) := by
    rw [hqueue]
    exact List.mem_filter.2 ⟨he, hkind⟩
  exact ⟨e, (List.mem_filter.1 hmem).1, hen⟩

/-- The content of R29, field by field. -/
theorem statusContent_eq (s : State) : s.statusContent =
    { mode := match s.sup.mode with
        | .service => .service
        | .isolated => .isolated
        | _ => .normal
      zone := s.zone
      fireZones := ⟨decide (s.fire.origins.one ≠ []), decide (s.fire.origins.two ≠ []), decide (s.fire.origins.three ≠ []),
        decide (s.fire.origins.four ≠ [])⟩
      general := s.fire.generalTimer.isSome
      current := min 65535 ((Quad.all.map (fun c => if (s.chan c).driven then (s.chan c).drv.current.getD 0 else 0)).sum)
      channels := (Quad.all.filter (fun c => decide ((s.chan c).state ≠ .absent))).map
        (fun c => ⟨(s.chan c).state, (s.chan c).dem.win.map Prod.fst, (s.chan c).drv.count * 1000 / s.stroke c⟩) } := by
  have hzone : ∀ l : List Nat, (!l.isEmpty) = decide (l ≠ []) := by
    intro l; cases l <;> rfl
  unfold State.statusContent
  simp only [hzone]
  cases s.sup.mode <;> rfl

/-! ## The commands -/

theorem exec_statusPeriodic {s : State} (hs : s.starting = false) (ht : s.sched.statusPeriod.isSome = true) :
    exec .statusPeriodic s = .next (s.queueStatus.finish s) := by
  show execStatusPeriodic s = _
  simp [execStatusPeriodic, hs, ht]

theorem exec_statusSpacingExpiry (s : State) :
    exec .statusSpacingExpiry s = .next ({ s with sched.statusSpacing := none }.finish s) := rfl

theorem exec_currentReport {s : State} {c : Chan} (mean : Nat) (hd : (s.chan c).driven = true)
    (ht : (s.chan c).drv.reportTimer.isSome = true) :
    exec (.currentReport c mean) s =
      .next ((s.setChan c { s.chan c with drv.current := some (min 65535 mean), drv.reportTimer := some 100 }).finish s) := by
  show execCurrentReport c mean s = _
  simp [execCurrentReport, State.modChan, hd, ht]

/-- A channel replaced by one in the same state leaves the channels that wait as they are. -/
theorem setChan_not_waiting {s : State} {c : Chan} {k : Channel} (hk : k.state = (s.chan c).state)
    (hw : ∀ d, (s.chan d).state ≠ .waiting) (d : Chan) : ((s.setChan c k).chan d).state ≠ .waiting := by
  by_cases h : d = c
  · subst h
    rw [chan_setChan_self, hk]
    exact hw d
  · rw [chan_setChan_ne s k h]
    exact hw d

/-- Settles O35: every clause is the end of a command, the first after a STATUS queued by the 5 s period and the others with nothing
to start, so that only the change-caused STATUS is left to decide. -/
theorem statusQueued : Obligations.StatusQueued := by
  refine ⟨fun s hs ht => ?periodic, fun last s hs hl hn hw hc hd => ?due, fun last s hl hn hw hc h => ?undue,
    fun c mean last u s hdr ht hu hs hsp hl hn hw hc => ?report⟩
  case periodic =>
    exact ⟨_, exec_statusPeriodic hs ht, finish_follows s.queueStatus s, queueStatus_finish_mem s s, statusContent_eq s⟩
  case due =>
    exact ⟨_, exec_statusSpacingExpiry s,
      finish_queues_status (s := { s with sched.statusSpacing := none }) s hw hc hl hn hs rfl hd⟩
  case undue =>
    exact ⟨_, exec_statusSpacingExpiry s,
      finish_queues_nothing (s := { s with sched.statusSpacing := none }) s hw hc hl hn h⟩
  case report =>
    subst hu
    have hw' := setChan_not_waiting (c := c)
      (k := { s.chan c with drv.current := some (min 65535 mean), drv.reportTimer := some 100 }) rfl hw
    exact ⟨_, exec_currentReport mean hdr ht, fun hd => finish_queues_status s hw' hc hl hn hs hsp hd,
      fun hd => finish_queues_nothing s hw' hc hl hn (.inr hd)⟩

end Sys2Proof.Machine
end

section
/-! The characters of a notice (R3, R4, R19 to R22): every field read back from the characters that carry it, the payload of each kind read
back by the content test, and the whole notice taken character by character up to its last. -/

namespace Sys2Proof.Machine

open Sys2Proof

/-! ## Fields of one and of two characters -/

theorem toNat_char {n : Nat} (h : n ≤ 255) : (char n).toNat = n := by
  rw [char, BitVec.toNat_ofNat, Nat.mod_eq_of_lt (by omega)]

@[simp] theorem ofBytes_hi_lo (w : Word) : Word.ofBytes w.hi w.lo = w := by
  have hjoin : w.extractLsb' 8 8 ++ w.extractLsb' 0 8 = w.extractLsb' 0 16 :=
    BitVec.extractLsb'_append_extractLsb'_eq_extractLsb' rfl
  exact hjoin.trans BitVec.extractLsb'_eq_self

theorem natOfBytes_split {n : Nat} (h : n ≤ 65535) :
    natOfBytes (Word.hi (BitVec.ofNat 16 n)) (Word.lo (BitVec.ofNat 16 n)) = n := by
  rw [natOfBytes, ofBytes_hi_lo, BitVec.toNat_ofNat, Nat.mod_eq_of_lt (by omega)]

/-! ## Codes -/

theorem kindOfHead_head (k : Kind) : kindOfHead k.head = some k := by
  cases k <;> decide

@[simp] theorem ofNumber_number (z : Quad) : Quad.ofNumber z.number = some z := by
  cases z <;> rfl

@[simp] theorem keyOfCode_code (k : KeyState) : keyOfCode k.code = some k := by
  cases k <;> rfl

@[simp] theorem modeOfCode_code (m : RunMode) : modeOfCode m.code = some m := by
  cases m <;> rfl

@[simp] theorem outcomeOfCode_code (o : LoadOutcome) : outcomeOfCode o.code = some o := by
  cases o <;> rfl

@[simp] theorem sourceOfCode_code (src : Option Source) : sourceOfCode (sourceCode src) = some src := by
  rcases src with _ | src
  · rfl
  · cases src <;> rfl

theorem stateOfCode_code {st : ChState} (h : st ≠ .absent) : stateOfCode st.code = some st := by
  cases st
  case absent => exact absurd rfl h
  all_goals rfl

theorem quad_number_le (z : Quad) : 1 ≤ z.number ∧ z.number ≤ 4 := by
  cases z <;> decide

theorem key_code_le (k : KeyState) : k.code ≤ 2 := by
  cases k <;> decide

theorem mode_code_le (m : RunMode) : m.code ≤ 3 := by
  cases m <;> decide

theorem outcome_code_le (o : LoadOutcome) : o.code ≤ 2 := by
  cases o <;> decide

theorem state_code_le (st : ChState) : st.code ≤ 7 := by
  cases st <;> decide

theorem sourceCode_le (src : Option Source) : sourceCode src ≤ 6 := by
  rcases src with _ | src
  · decide
  · cases src <;> decide

/-! ## Four flags in one character -/

theorem bits4_le (f : Four Bool) : bits4 f ≤ 15 := by
  have one := Bool.toNat_le f.one
  have two := Bool.toNat_le f.two
  have three := Bool.toNat_le f.three
  have four := Bool.toNat_le f.four
  unfold bits4
  omega

@[simp] theorem ofBits4_bits4 (f : Four Bool) : ofBits4 (bits4 f) = f := by
  obtain ⟨a, b, c, d⟩ := f
  revert a b c d
  decide

theorem bits4_pos {f : Four Bool} (h : f ≠ Four.all false) : 1 ≤ bits4 f := by
  by_contra hz
  have hzero : bits4 f = 0 := by omega
  refine h ?_
  rw [← ofBits4_bits4 f, hzero]
  rfl

/-! ## FIRE, FIRE CLEAR, OVERRIDE, CLAIM and VENTILATE -/

/-- The two causes of a FIRE notice, bits 0 and 1 of its second character. -/
theorem testBit_causes (contact heat : Bool) :
    (contact.toNat + 2 * heat.toNat).testBit 0 = contact ∧ (contact.toNat + 2 * heat.toNat).testBit 1 = heat := by
  revert contact heat
  decide

theorem causes_pos {contact heat : Bool} (h : (contact || heat) = true) : 1 ≤ contact.toNat + 2 * heat.toNat := by
  revert contact heat
  decide

theorem parse_fire (z : Zone) (contact heat : Bool) (h : (Notice.fire z contact heat).wf = true) :
    parseNotice .fire (Notice.fire z contact heat).payload = some (.fire z contact heat) := by
  have hz : z.number ≤ 255 := by have := quad_number_le z; omega
  have hcontact := Bool.toNat_le contact
  have hheat := Bool.toNat_le heat
  have hchar : (char (contact.toNat + 2 * heat.toNat)).toNat = contact.toNat + 2 * heat.toNat := toNat_char (by omega)
  have hpos := causes_pos h
  have hle : contact.toNat + 2 * heat.toNat ≤ 3 := by omega
  obtain ⟨hbit0, hbit1⟩ := testBit_causes contact heat
  simp only [parseNotice, Notice.payload, toNat_char hz, ofNumber_number, hchar, hbit0, hbit1, if_pos (And.intro hpos hle)]

theorem parse_fireClear (z : Zone) : parseNotice .fireClear (Notice.fireClear z).payload = some (.fireClear z) := by
  have hz : z.number ≤ 255 := by have := quad_number_le z; omega
  simp [parseNotice, Notice.payload, toNat_char hz]

theorem parse_override (k : KeyState) : parseNotice .override (Notice.override k).payload = some (.override k) := by
  have hk : k.code ≤ 255 := by have := key_code_le k; omega
  simp [parseNotice, Notice.payload, toNat_char hk]

theorem parse_claim (set : Four Bool) (inrush : Nat) (fire : Bool) (h : (Notice.claim set inrush fire).wf = true) :
    parseNotice .claim (Notice.claim set inrush fire).payload = some (.claim set inrush fire) := by
  simp only [Notice.wf, Bool.and_eq_true, decide_eq_true_eq] at h
  obtain ⟨hset, hinrush⟩ := h
  have hle := bits4_le set
  have hpos := bits4_pos hset
  have hfire := Bool.toNat_le fire
  have hchar : (char (bits4 set)).toNat = bits4 set := toNat_char (by omega)
  have hflag : (char fire.toNat).toNat = fire.toNat := toNat_char (by omega)
  simp [parseNotice, Notice.payload, natBytes, hchar, hflag, natOfBytes_split hinrush, hpos, hle, hfire]

theorem parse_ventilate (zones : Four Bool) (target : Nat) (h : (Notice.ventilate zones target).wf = true) :
    parseNotice .ventilate (Notice.ventilate zones target).payload = some (.ventilate zones target) := by
  simp only [Notice.wf, Bool.and_eq_true, decide_eq_true_eq] at h
  obtain ⟨hzones, htarget⟩ := h
  have hle := bits4_le zones
  have hpos := bits4_pos hzones
  have hchar : (char (bits4 zones)).toNat = bits4 zones := toNat_char (by omega)
  have hread := natOfBytes_split (n := target) (by omega)
  simp [parseNotice, Notice.payload, natBytes, hchar, hread, hpos, hle, htarget]

/-! ## STATUS -/

theorem parseRecords_cons {r : ChanRecord} (h : r.wf = true) {rest : List Byte} {more : List ChanRecord}
    (hrest : parseRecords rest = some more) : parseRecords (r.bytes ++ rest) = some (r :: more) := by
  simp only [ChanRecord.wf, Bool.and_eq_true, decide_eq_true_eq] at h
  obtain ⟨hstate, hposition⟩ := h
  have hst := state_code_le r.state
  have hsrc := sourceCode_le r.source
  have hchar : (char (r.state.code + 16 * sourceCode r.source)).toNat = r.state.code + 16 * sourceCode r.source :=
    toNat_char (by omega)
  have htop : (r.state.code + 16 * sourceCode r.source) / 128 = 0 := by omega
  have hlow : (r.state.code + 16 * sourceCode r.source) % 16 = r.state.code := by omega
  have hhigh : (r.state.code + 16 * sourceCode r.source) / 16 % 8 = sourceCode r.source := by omega
  have hread := natOfBytes_split (n := r.position) (by omega)
  simp [ChanRecord.bytes, natBytes, parseRecords, hchar, htop, hlow, hhigh, stateOfCode_code hstate, hrest, hread, hposition]

theorem parseRecords_bytes {l : List ChanRecord} (h : l.all ChanRecord.wf = true) :
    parseRecords (l.flatMap ChanRecord.bytes) = some l := by
  induction l with
  | nil => rfl
  | cons r rest ih =>
    simp only [List.all_cons, Bool.and_eq_true] at h
    obtain ⟨hr, hrest⟩ := h
    rw [List.flatMap_cons]
    exact parseRecords_cons hr (ih hrest)

theorem parse_status (c : StatusContent) (h : (Notice.status c).wf = true) :
    parseNotice .status (Notice.status c).payload = some (.status c) := by
  simp only [Notice.wf, Bool.and_eq_true, decide_eq_true_eq] at h
  obtain ⟨⟨hcurrent, -⟩, hrecords⟩ := h
  have hmode := mode_code_le c.mode
  have hzone := quad_number_le c.zone
  have hbits := bits4_le c.fireZones
  have hgeneral := Bool.toNat_le c.general
  have hfirst : (char (c.mode.code + 16 * c.zone.number)).toNat = c.mode.code + 16 * c.zone.number :=
    toNat_char (by omega)
  have hsecond : (char (bits4 c.fireZones + 16 * c.general.toNat)).toNat = bits4 c.fireZones + 16 * c.general.toNat :=
    toNat_char (by omega)
  have hmodeBits : (c.mode.code + 16 * c.zone.number) % 16 = c.mode.code := by omega
  have hzoneBits : (c.mode.code + 16 * c.zone.number) / 16 = c.zone.number := by omega
  have hzonesBits : (bits4 c.fireZones + 16 * c.general.toNat) % 16 = bits4 c.fireZones := by omega
  have hgeneralBit : (bits4 c.fireZones + 16 * c.general.toNat) / 16 = c.general.toNat := by omega
  have hrange : bits4 c.fireZones + 16 * c.general.toNat ≤ 31 := by omega
  simp [parseNotice, Notice.payload, StatusContent.bytes, natBytes, hfirst, hsecond, hmodeBits, hzoneBits, hzonesBits,
    hgeneralBit, hrange, parseRecords_bytes hrecords, natOfBytes_split hcurrent]

/-! ## WEATHER -/

theorem takeField_optBytes {o : Option Nat} {most : Nat} (h : o.getD 0 ≤ most) (hmost : most ≤ 65535) (rest : List Byte) :
    takeField o.isSome most (optBytes o ++ rest) = some (o, rest) := by
  cases o with
  | none => rfl
  | some n =>
    have hn : n ≤ most := h
    have hread := natOfBytes_split (n := n) (by omega)
    simp [takeField, optBytes, natBytes, hread, hn]

/-- The rain field as it stands at the end of a WEATHER payload. -/
def rainBytes : Option Bool → List Byte
  | none => []
  | some wet => [char wet.toNat]

theorem takeRain_rainBytes (o : Option Bool) : takeRain o.isSome (rainBytes o) = some o := by
  rcases o with _ | wet
  · rfl
  · cases wet <;> rfl

theorem report_bytes_eq (r : Report) :
    r.bytes = char (bits4 ⟨r.mean.isSome, r.gust.isSome, r.direction.isSome, r.rain.isSome⟩) ::
      (optBytes r.mean ++ (optBytes r.gust ++ (optBytes r.direction ++ rainBytes r.rain))) := by
  unfold Report.bytes
  simp only [List.append_assoc]
  cases r.rain <;> rfl

theorem parseReport_bytes {r : Report} (h : r.wf = true) :
    parseReport (bits4 ⟨r.mean.isSome, r.gust.isSome, r.direction.isSome, r.rain.isSome⟩)
      (optBytes r.mean ++ (optBytes r.gust ++ (optBytes r.direction ++ rainBytes r.rain))) = some r := by
  simp only [Report.wf, Bool.and_eq_true, decide_eq_true_eq] at h
  obtain ⟨⟨hmean, hgust⟩, hdirection⟩ := h
  have hle := bits4_le ⟨r.mean.isSome, r.gust.isSome, r.direction.isSome, r.rain.isSome⟩
  have hflags := ofBits4_bits4 ⟨r.mean.isSome, r.gust.isSome, r.direction.isSome, r.rain.isSome⟩
  simp only [ofBits4, Four.mk.injEq] at hflags
  obtain ⟨hbit0, hbit1, hbit2, hbit3⟩ := hflags
  unfold parseReport
  rw [if_neg (by omega), hbit0, hbit1, hbit2, hbit3, takeField_optBytes hmean (by decide)]
  dsimp only
  rw [takeField_optBytes hgust (by decide)]
  dsimp only
  rw [takeField_optBytes hdirection (by decide)]
  dsimp only
  rw [takeRain_rainBytes]

theorem parse_weather (r : Report) (h : (Notice.weather r).wf = true) :
    parseNotice .weather (Notice.weather r).payload = some (.weather r) := by
  have hle := bits4_le ⟨r.mean.isSome, r.gust.isSome, r.direction.isSome, r.rain.isSome⟩
  rw [Notice.payload, report_bytes_eq, parseNotice, toNat_char (by omega), parseReport_bytes h]
  rfl

/-! ## HEALTH -/

theorem toNat_codes {codes : List Nat} (h : codes.all (fun n => decide (n ≤ 255)) = true) :
    (codes.map char).map BitVec.toNat = codes := by
  have hback : ∀ n ∈ codes, (BitVec.toNat ∘ char) n = id n := fun n hn =>
    toNat_char (of_decide_eq_true (List.all_eq_true.1 h n hn))
  rw [List.map_map, List.map_congr_left hback, List.map_id]

theorem parse_health (c : HealthContent) (h : (Notice.health c).wf = true) :
    parseNotice .health (Notice.health c).payload = some (.health c) := by
  simp only [Notice.wf, Bool.and_eq_true, decide_eq_true_eq] at h
  obtain ⟨⟨⟨⟨⟨⟨hvalid, hdiscard⟩, hdropped⟩, hlast⟩, hlength⟩, hascending⟩, hcodes⟩ := h
  have houtcome := outcome_code_le c.outcome
  have hload : (char (64 * c.outcome.code + c.lastCorrected)).toNat = 64 * c.outcome.code + c.lastCorrected :=
    toNat_char (by omega)
  have houtcomeBits : (64 * c.outcome.code + c.lastCorrected) / 64 = c.outcome.code := by omega
  have hlastBits : (64 * c.outcome.code + c.lastCorrected) % 64 = c.lastCorrected := by omega
  have hcount : (char c.codes.length).toNat = c.codes.length := toNat_char (by omega)
  simp [parseNotice, Notice.payload, HealthContent.bytes, natBytes, hload, houtcomeBits, hlastBits, hcount, toNat_char hdiscard,
    toNat_char hdropped, natOfBytes_split hvalid, toNat_codes hcodes, hascending]

/-- The content test passes what the layout writes, and reads it back (R20, R22). -/
theorem parseNotice_payload (n : Notice) (h : n.wf = true) : parseNotice n.kind n.payload = some n := by
  cases n with
  | fire z contact heat => exact parse_fire z contact heat h
  | fireClear z => exact parse_fireClear z
  | override k => exact parse_override k
  | claim set inrush fire => exact parse_claim set inrush fire h
  | status c => exact parse_status c h
  | weather r => exact parse_weather r h
  | ventilate zones target => exact parse_ventilate zones target h
  | health c => exact parse_health c h

/-! ## A notice as its characters -/

theorem records_length (l : List ChanRecord) : (l.flatMap ChanRecord.bytes).length = 3 * l.length := by
  induction l with
  | nil => rfl
  | cons r rest ih =>
    simp only [List.flatMap_cons, List.length_append, ih, List.length_cons]
    simp only [ChanRecord.bytes, natBytes, List.length_cons, List.length_nil]
    omega

theorem optBytes_length_le (o : Option Nat) : (optBytes o).length ≤ 2 := by
  cases o <;> simp [optBytes, natBytes]

theorem rainBytes_length_le (o : Option Bool) : (rainBytes o).length ≤ 1 := by
  cases o <;> simp [rainBytes]

/-- A payload has a length that the table allows for its kind (R20). -/
theorem payload_lengthAllowed (n : Notice) (h : n.wf = true) : n.kind.lengthAllowed n.payload.length = true := by
  cases n with
  | fire z contact heat => rfl
  | fireClear z => rfl
  | override k => rfl
  | claim set inrush fire => rfl
  | ventilate zones target => rfl
  | status c =>
    simp only [Notice.wf, Bool.and_eq_true, decide_eq_true_eq] at h
    obtain ⟨⟨-, hchannels⟩, -⟩ := h
    have hlength : (Notice.status c).payload.length = 4 + 3 * c.channels.length := by
      simp only [Notice.payload, StatusContent.bytes, natBytes, List.length_cons, List.length_append, List.length_nil,
        records_length]
      omega
    rw [hlength]
    simp only [Notice.kind, Kind.lengthAllowed, Bool.or_eq_true, beq_iff_eq]
    omega
  | weather r =>
    have hmean := optBytes_length_le r.mean
    have hgust := optBytes_length_le r.gust
    have hdirection := optBytes_length_le r.direction
    have hrain := rainBytes_length_le r.rain
    simp only [Notice.payload, report_bytes_eq, Notice.kind, Kind.lengthAllowed, List.length_cons, List.length_append,
      Bool.and_eq_true, decide_eq_true_eq]
    omega
  | health c =>
    simp only [Notice.wf, Bool.and_eq_true, decide_eq_true_eq] at h
    obtain ⟨⟨⟨-, hcodes⟩, -⟩, -⟩ := h
    simp only [Notice.payload, HealthContent.bytes, natBytes, Notice.kind, Kind.lengthAllowed, List.length_cons,
      List.length_append, List.length_map, List.length_nil, Bool.and_eq_true, decide_eq_true_eq]
    omega

theorem lengthAllowed_le {k : Kind} {n : Nat} (h : k.lengthAllowed n = true) : n ≤ 24 := by
  cases k <;> simp [Kind.lengthAllowed] at h <;> omega

/-- The check characters of a notice (R21). -/
def Notice.checkChars (bay : Nat) (n : Notice) : List Byte :=
  let c := check (n.kind.head :: char bay :: char n.payload.length :: n.payload)
  [c.hi, c.lo]

/-- A notice character by character: head, bay, declared length, payload, check (R3). -/
theorem frame_eq (bay : Nat) (n : Notice) :
    n.frame bay = n.kind.head :: char bay :: char n.payload.length :: (n.payload ++ n.checkChars bay) := rfl

theorem frame_length (bay : Nat) (n : Notice) : (n.frame bay).length = n.payload.length + 5 := by
  simp [frame_eq, Notice.checkChars]

theorem frame_ne_nil (bay : Nat) (n : Notice) : n.frame bay ≠ [] := List.cons_ne_nil _ _

/-- From the third character on, characters make a whole notice where 5 and the declared length stand (R3). -/
theorem noticeComplete_cons (a b l : Byte) (rest : List Byte) :
    noticeComplete (a :: b :: l :: rest) = decide (rest.length = l.toNat + 2) := by
  simp only [noticeComplete, declaredLength, List.length_cons, Nat.reduceEqDiff, beq_eq_decide]

/-- From the fourth character on, the tests at the end of a character hold (R4). -/
theorem charsAccepted_cons (a b l c : Byte) (rest : List Byte) : charsAccepted (a :: b :: l :: c :: rest) = true := rfl

/-- Characters that a receiver takes to their end: each passes its tests, and the last alone completes a notice, whose check agrees (R4). -/
structure TakenWhole (frame : List Byte) : Prop where
  accepted : ∀ k, 1 ≤ k → k ≤ frame.length → charsAccepted (frame.take k) = true
  incomplete : ∀ k, k < frame.length → noticeComplete (frame.take k) = false
  complete : noticeComplete frame = true
  agrees : checkAgrees frame = true

section
variable {bay : Nat} {n : Notice}

theorem frame_accepted (hlow : 1 ≤ bay) (hhigh : bay ≤ 32) (hwf : n.wf = true) :
    ∀ k, 1 ≤ k → k ≤ (n.frame bay).length → charsAccepted ((n.frame bay).take k) = true := by
  intro k hk hle
  have hallowed := payload_lengthAllowed n hwf
  have hlength := lengthAllowed_le hallowed
  rw [frame_length] at hle
  rw [frame_eq]
  match k, hk with
  | 1, _ => simp [charsAccepted, kindOfHead_head]
  | 2, _ => simp [charsAccepted, toNat_char (show bay ≤ 255 by omega), hlow, hhigh]
  | 3, _ =>
    simp [charsAccepted, kindOfHead_head, toNat_char (show n.payload.length ≤ 255 by omega), hallowed, hlength]
  | k + 4, _ =>
    obtain ⟨c, rest, hrest⟩ : ∃ c rest, n.payload ++ n.checkChars bay = c :: rest :=
      List.exists_cons_of_ne_nil (by simp [Notice.checkChars])
    simp only [hrest, List.take_succ_cons, charsAccepted_cons]

theorem frame_incomplete (hwf : n.wf = true) :
    ∀ k, k < (n.frame bay).length → noticeComplete ((n.frame bay).take k) = false := by
  intro k hlt
  have hlength := lengthAllowed_le (payload_lengthAllowed n hwf)
  rw [frame_length] at hlt
  rw [frame_eq]
  match k with
  | 0 => rfl
  | 1 => rfl
  | 2 => rfl
  | k + 3 =>
    rw [List.take_succ_cons, List.take_succ_cons, List.take_succ_cons, noticeComplete_cons,
      toNat_char (show n.payload.length ≤ 255 by omega), decide_eq_false_iff_not, List.length_take]
    omega

theorem frame_complete (hwf : n.wf = true) : noticeComplete (n.frame bay) = true := by
  have hlength := lengthAllowed_le (payload_lengthAllowed n hwf)
  rw [frame_eq, noticeComplete_cons, toNat_char (show n.payload.length ≤ 255 by omega)]
  simp [Notice.checkChars]

theorem frame_agrees : checkAgrees (n.frame bay) = true := by
  have hsplit : n.frame bay =
      (n.kind.head :: char bay :: char n.payload.length :: n.payload) ++ n.checkChars bay := rfl
  have hbody : (n.frame bay).length - 2 = (n.kind.head :: char bay :: char n.payload.length :: n.payload).length := by
    rw [frame_length]; rfl
  rw [checkAgrees, hbody, hsplit, List.take_left, List.drop_left]
  exact beq_self_eq_true _

theorem frame_takenWhole (hlow : 1 ≤ bay) (hhigh : bay ≤ 32) (hwf : n.wf = true) : TakenWhole (n.frame bay) :=
  ⟨frame_accepted hlow hhigh hwf, frame_incomplete hwf, frame_complete hwf, frame_agrees⟩

theorem frame_bay (hhigh : bay ≤ 32) : noticeBay (n.frame bay) = bay := toNat_char (by omega)

theorem frame_content (hwf : n.wf = true) : noticeContent (n.frame bay) = some n := by
  have hlength := lengthAllowed_le (payload_lengthAllowed n hwf)
  simp only [frame_eq, noticeContent, kindOfHead_head, toNat_char (show n.payload.length ≤ 255 by omega), List.take_left,
    parseNotice_payload n hwf]

end

end Sys2Proof.Machine
end

section
/-! A valid notice of another bay (R5, R16, R37 to R40): the receiver takes its characters to the last, the Peer View refreshes the sender's
entry, and the owner of the kind, which takes it next, leaves the receiver, the counters and the Peer View alone. -/

namespace Sys2Proof.Machine

open Sys2Proof

/-! ## The characters taken one after another (R2 to R5) -/

@[simp] theorem testBreak_toIdle (s : State) : s.testBreak.toIdle = s.toIdle := by
  unfold State.testBreak; split <;> rfl

@[simp] theorem testBreak_receiver (s : State) : s.testBreak.line.receiver = s.line.receiver := by
  unfold State.testBreak; split <;> rfl

@[simp] theorem testBreak_flight (s : State) : s.testBreak.line.flight = s.line.flight := by
  unfold State.testBreak; split <;> rfl

/-- A station at the end of a valid notice of another bay: its receiver is idle, and the notice is counted (R5, R16). -/
def State.counted (s : State) : State := { s.toIdle with line.valid := min 65535 (s.line.valid + 1) }

theorem counted_takePeer (s : State) (bay : Nat) (part : PeerEntry → PeerEntry) :
    s.counted.takePeer bay part = s.heardFrom bay part := rfl

/-- A state with no attempt in flight and the characters of a notice taken, which stands as another one but for what the receiver keeps of
that notice: both are the same once the receiver is idle. -/
structure State.Taking (t s : State) (chars : List Byte) : Prop where
  receiver : ∃ inChar, t.line.receiver = .receiving chars inChar
  flight : t.line.flight = none
  idle : t.toIdle = s.toIdle

section
variable {s t : State} {chars : List Byte} (h : t.Taking s chars)
include h

/-- A character that is accepted and does not complete the notice is kept (R4). -/
theorem State.Taking.next {char : Byte} (hacc : charsAccepted (chars ++ [char]) = true)
    (hinc : noticeComplete (chars ++ [char]) = false) : (t.takeChar char true).Taking s (chars ++ [char]) := by
  obtain ⟨⟨inChar, hreceiver⟩, hflight, hidle⟩ := h
  have htake : t.takeChar char true = State.testBreak { t.readRecessive with
      line.receiver := .receiving (chars ++ [char]) false, line.breakAtEnd := t.line.breakArmed } := by
    simp [State.takeChar, hreceiver, readChar_of_no_flight hflight, hacc, hinc]
  rw [htake]
  refine ⟨⟨false, testBreak_receiver _⟩, (testBreak_flight _).trans hflight, ?_⟩
  rw [testBreak_toIdle]
  exact hidle

/-- The last character of a notice of another bay whose check agrees: the notice is counted and delivered (R5, R16). -/
theorem State.Taking.last {char : Byte} (hwhole : TakenWhole (chars ++ [char])) (hbay : noticeBay (chars ++ [char]) ≠ s.bay) :
    t.takeChar char true = s.counted.deliver
      (noticeBay (chars ++ [char])) (noticeContent (chars ++ [char])) := by
  obtain ⟨⟨inChar, hreceiver⟩, hflight, hidle⟩ := h
  have hacc : charsAccepted (chars ++ [char]) = true := by
    have := hwhole.accepted (chars ++ [char]).length (by simp) le_rfl
    rwa [List.take_length] at this
  have hsame : t.readRecessive.toIdle = s.toIdle := hidle
  have hother : noticeBay (chars ++ [char]) ≠ t.readRecessive.bay := by
    have : t.readRecessive.bay = s.bay := congrArg (·.bay) hsame
    rwa [this]
  simp only [State.takeChar, hreceiver, readChar_of_no_flight hflight, if_true, hacc, hwhole.complete, Bool.not_true,
    Bool.or_self, Bool.false_eq_true, if_false, State.completeNotice, readRecessive_flight, hflight, Option.isSome_none,
    hwhole.agrees, if_neg hother, hsame]
  rfl

end

/-- What is left of a notice of another bay, taken character by character (R3 to R5). -/
theorem takeChars_whole {s : State} {frame : List Byte} (hwhole : TakenWhole frame) (hbay : noticeBay frame ≠ s.bay)
    (rest : List Byte) : ∀ (t : State) (chars : List Byte), t.Taking s chars → chars ++ rest = frame → rest ≠ [] →
      t.takeChars rest =
        s.counted.deliver (noticeBay frame) (noticeContent frame) := by
  induction rest with
  | nil => intro t chars h hframe hne; exact absurd rfl hne
  | cons char rest ih =>
    intro t chars h hframe hne
    have hframe' : (chars ++ [char]) ++ rest = frame := by simpa using hframe
    cases rest with
    | nil =>
      rw [List.append_nil] at hframe'
      subst hframe'
      exact h.last hwhole hbay
    | cons next rest =>
      have htaken : frame.take (chars ++ [char]).length = chars ++ [char] := by rw [← hframe', List.take_left]
      have hlt : (chars ++ [char]).length < frame.length := by rw [← hframe']; simp
      have hacc := hwhole.accepted (chars ++ [char]).length (by simp) hlt.le
      have hinc := hwhole.incomplete (chars ++ [char]).length hlt
      rw [htaken] at hacc hinc
      exact ih _ _ (h.next hacc hinc) hframe' (List.cons_ne_nil _ _)

/-- NOTICE_RECEIVED with all the characters of a notice of another bay delivers it to the idle, counting station (R5, R16). -/
theorem exec_noticeReceived_of_hears {s : State} {bay : Nat} {n : Notice} (h : s.hears bay n) :
    exec (.noticeReceived (n.frame bay)) s =
      .next ((s.counted.deliver bay (some n)).finish s) := by
  obtain ⟨hidle, hflight, hlow, hhigh, hother, hwf⟩ := h
  have hstart : s.startNotice (n.frame bay) = { s with line.receiver := .receiving [] true, line.recessive := 0 } := by
    simp only [State.startNotice, hidle, if_neg (frame_ne_nil bay n)]
  have hbay : noticeBay (n.frame bay) = bay := frame_bay hhigh
  have htake := takeChars_whole (s := s) (frame_takenWhole hlow hhigh hwf) (by rwa [hbay]) (n.frame bay)
    (s.startNotice (n.frame bay)) [] (by rw [hstart]; exact ⟨⟨true, rfl⟩, hflight, rfl⟩) rfl (frame_ne_nil bay n)
  rw [hbay, frame_content hwf] at htake
  show execNoticeReceived (n.frame bay) s = _
  rw [execNoticeReceived, htake]

/-! ## What the owners of the kinds leave alone -/

/-- What the reception of a notice shows: the receiver, the counts of valid and of discarded notices, and the Peer View. -/
def State.reception (s : State) : Receiver × Nat × Nat × PeerView := (s.line.receiver, s.line.valid, s.line.discard, s.peer)

theorem reception_of_kept {s t : State} (h : t.kept = s.kept) : t.reception = s.reception := by
  have h' := congrArg State.reception h
  exact h'

section
variable (s : State)

@[simp] theorem finish_reception (s0 : State) : (s.finish s0).reception = s.reception := reception_of_kept (finish_kept s s0)

@[simp] theorem recombine_reception : s.recombine.reception = s.reception := by
  refine (reception_of_kept (setAtrium_kept s s.combined)).trans ?_
  unfold State.faultIf
  split <;> rfl

@[simp] theorem takeFire_reception (bay : Nat) (z : Zone) : (s.takeFire bay z).reception = s.reception :=
  (reception_of_kept (refreshFire_kept (s.joinZone z bay))).trans rfl

@[simp] theorem takeFireClear_reception (bay : Nat) (z : Zone) : (s.takeFireClear bay z).reception = s.reception := by
  unfold State.takeFireClear
  refine (reception_of_kept (refreshFire_kept _)).trans ?_
  split <;> rfl

@[simp] theorem setOverrides_reception (l : List OverrideOrigin) : (s.setOverrides l).reception = s.reception :=
  (reception_of_kept (setOverrides_kept s l)).trans rfl

@[simp] theorem takeOverride_reception (bay : Nat) (k : KeyState) : (s.takeOverride bay k).reception = s.reception := by
  cases k <;> exact setOverrides_reception s _

@[simp] theorem removeItems_reception (gone rest : List StartItem) : (s.removeItems gone rest).reception = s.reception :=
  (reception_of_kept (removeItems_kept s gone rest)).trans rfl

@[simp] theorem removeOldest_reception : s.removeOldest.reception = s.reception := by
  unfold State.removeOldest
  split
  · exact removeItems_reception s _ _
  · rfl

@[simp] theorem takeClaim_reception (bay : Nat) (set : Four Bool) (inrush : Nat) (fire : Bool) :
    (s.takeClaim bay set inrush fire).reception = s.reception :=
  (removeOldest_reception (s.removeBay bay)).trans (removeItems_reception s _ _)

@[simp] theorem takeVentilate_reception (bay : Nat) (zones : Four Bool) (target : Nat) :
    (s.takeVentilate bay zones target).reception = s.reception :=
  (reception_of_kept (setVentMap_kept s _)).trans rfl

end

/-- The part of its sender's entry that a notice replaces (R38 to R40). -/
def Notice.part : Notice → PeerEntry → PeerEntry
  | .status c, e => { e with status := some c }
  | .weather r, e => { e with weather := some ⟨r, 0, true⟩ }
  | .health h, e => { e with health := some h }
  | _, e => e

/-- Of the delivery the Peer View alone shows: the receiver and the counters are left to the Line Unit (R37 to R40). -/
theorem deliver_reception (s : State) (bay : Nat) (n : Notice) :
    (s.deliver bay (some n)).reception = (s.takePeer bay n.part).reception := by
  cases n with
  | status c => rfl
  | health h => rfl
  | weather r => exact recombine_reception _
  | fire z contact heat => exact takeFire_reception _ bay z
  | fireClear z => exact takeFireClear_reception _ bay z
  | override k => exact takeOverride_reception _ bay k
  | claim set inrush fire => exact takeClaim_reception _ bay set inrush fire
  | ventilate zones target => exact takeVentilate_reception _ bay zones target

/-! ## The sender's entry (R37) -/

theorem find_insertEntry_other (e : PeerEntry) {b : Nat} (hb : b ≠ e.bay) (l : List PeerEntry) :
    (insertEntry e l).find? (fun x => x.bay == b) = l.find? (fun x => x.bay == b) := by
  have hne : (e.bay == b) = false := beq_eq_false_iff_ne.2 hb.symm
  induction l with
  | nil => simp [insertEntry, hne]
  | cons a rest ih =>
    unfold insertEntry
    split
    · rw [List.find?_cons, hne]
    · rw [List.find?_cons, List.find?_cons, ih]

theorem find_insertEntry_self (e : PeerEntry) {l : List PeerEntry} (habsent : l.find? (fun x => x.bay == e.bay) = none) :
    (insertEntry e l).find? (fun x => x.bay == e.bay) = some e := by
  induction l with
  | nil => simp [insertEntry]
  | cons a rest ih =>
    unfold insertEntry
    split
    · simp
    · cases ha : a.bay == e.bay with
      | true => simp [ha] at habsent
      | false =>
        rw [List.find?_cons, ha] at habsent ⊢
        exact ih habsent

/-- An operation on every entry that keeps its bay is seen on the entry found. -/
theorem find_map_entries {f : PeerEntry → PeerEntry} (hf : ∀ e, (f e).bay = e.bay) (b : Nat) (l : List PeerEntry) :
    (l.map f).find? (fun e => e.bay == b) = (l.find? (fun e => e.bay == b)).map f := by
  rw [List.find?_map]
  congr
  funext e
  exact congrArg (· == b) (hf e)

theorem bay_of_find {l : List PeerEntry} {b : Nat} {e : PeerEntry} (h : l.find? (fun e => e.bay == b) = some e) : e.bay = b :=
  eq_of_beq (List.find?_some (p := fun e : PeerEntry => e.bay == b) h)

theorem any_bay_eq (l : List PeerEntry) (b : Nat) :
    l.any (fun e => e.bay == b) = (l.find? (fun e => e.bay == b)).isSome :=
  List.isSome_find?.symm

section
variable {bay : Nat} {part : PeerEntry → PeerEntry} (hpart : ∀ e, (part e).bay = e.bay)
include hpart

theorem refresh_bay (e : PeerEntry) : (if e.bay = bay then part { e with age := 0, fresh := true } else e).bay = e.bay := by
  split
  · exact hpart _
  · rfl

/-- The entry of a bay is found as the notice leaves it: the one held before, or a new one, refreshed and with its part taken (R37). -/
theorem find_refreshPeer_self (l : List PeerEntry) :
    (refreshPeer bay part l).find? (fun e => e.bay == bay) =
      some (part { (l.find? (fun e => e.bay == bay)).getD (PeerEntry.new bay) with age := 0, fresh := true }) := by
  unfold refreshPeer
  rw [any_bay_eq]
  cases hfind : l.find? (fun e => e.bay == bay) with
  | none =>
    have hnew : (part (PeerEntry.new bay)).bay = bay := hpart _
    have hfound := find_insertEntry_self (part (PeerEntry.new bay)) (l := l) (by rwa [hnew])
    rwa [hnew] at hfound
  | some e =>
    rw [Option.isSome_some, if_pos rfl, find_map_entries (refresh_bay hpart), hfind, Option.map_some, if_pos (bay_of_find hfind),
      Option.getD_some]

/-- The entry of any other bay is found as before. -/
theorem find_refreshPeer_other {b : Nat} (hb : b ≠ bay) (l : List PeerEntry) :
    (refreshPeer bay part l).find? (fun e => e.bay == b) = l.find? (fun e => e.bay == b) := by
  unfold refreshPeer
  split
  · rw [find_map_entries (refresh_bay hpart)]
    cases hfind : l.find? (fun e => e.bay == b) with
    | none => rfl
    | some e => rw [Option.map_some, if_neg (by rw [bay_of_find hfind]; exact hb)]
  · exact find_insertEntry_other _ (by rwa [hpart]) l

end

theorem part_bay (n : Notice) (e : PeerEntry) : (n.part e).bay = e.bay := by
  cases n <;> rfl

/-- Settles O21: the whole notice is delivered, of the delivery the Peer View alone shows, and the end of the command leaves it alone. -/
theorem noticeDelivered : Obligations.NoticeDelivered := by
  intro bay n s h
  refine ⟨(s.counted.deliver bay (some n)).finish s, exec_noticeReceived_of_hears h, ?_⟩
  have hreception : ((s.counted.deliver bay (some n)).finish s).reception = (s.heardFrom bay n.part).reception := by
    rw [finish_reception, deliver_reception, counted_takePeer]
  generalize (s.counted.deliver bay (some n)).finish s = t at hreception ⊢
  simp only [State.reception, State.heardFrom, Prod.mk.injEq] at hreception
  obtain ⟨hreceiver, hvalid, hdiscard, hpeer⟩ := hreception
  have hentries : t.peer.entries = refreshPeer bay n.part s.peer.entries := congrArg PeerView.entries hpeer
  refine ⟨hreceiver, hvalid, hdiscard, ?sender, fun b hb => ?other⟩
  case sender =>
    have hentry : t.peerEntry bay =
        some (n.part { (s.peerEntry bay).getD (PeerEntry.new bay) with age := 0, fresh := true }) := by
      rw [State.peerEntry, hentries]
      exact find_refreshPeer_self (part_bay n) s.peer.entries
    rw [hentry]
    cases hfind : s.peerEntry bay with
    | none => cases n <;> rfl
    | some e =>
      obtain rfl : e.bay = bay := bay_of_find hfind
      cases n <;> rfl
  case other =>
    rw [State.peerEntry, hentries]
    exact find_refreshPeer_other (part_bay n) hb s.peer.entries

end Sys2Proof.Machine
end

section
/-! Rain (R53 to R55): what each scan makes of the state, and the end of a command that changes the own report. -/

namespace Sys2Proof.Machine

open Sys2Proof

/-! ## The end of a command that changes no source -/

/-- A change of what no source follows posts nothing: a channel whose winner is settled is as it was. -/
theorem finish_redemands_same {s u : State} (hs : ∀ c, Alike s u c) (s0 : State) : (u.finish s0).Redemands s u := by
  refine finish_redemands rfl (fun _ => rfl) (fun _ _ => rfl) (Lighter.of_bud rfl) (fun c _ hw _ _ => ?_) rfl
  have hwin : u.winner c = (u.chan c).dem.win := by rw [← (hs c).winner, hw, (hs c).chan]
  rw [recompute_same (.inr hwin)]

/-! ## The end of a command that changes the own report (R55, R60) -/

theorem faultIf_alike (s : State) (n : Nat) (b : Bool) (c : Chan) : Alike s (s.faultIf n b) c := by
  cases b <;> exact ⟨rfl, rfl⟩

section
variable {s v : State} (hd : s.DemandsFollow) (hs : ∀ c, Alike s v c) (s0 : State)
include hd hs

theorem setAtrium_finish_redemands (r : Atrium) : ((v.setAtrium r).finish s0).Redemands s (v.withAtrium r) := by
  have hs1 : ∀ c, Alike s ({ v with wx.atrium := r }.faultIf 10 r.unknown) c := fun c =>
    have h1 := faultIf_alike { v with wx.atrium := r } 10 r.unknown c
    ⟨(hs c).settings.trans h1.settings, (hs c).chan.trans h1.chan⟩
  refine (windWeather_handsOver _ fun c ha => ?_).finish (fun _ _ => rfl) hs1 s0
  rw [← (hs1 c).chan] at ha
  rw [← (hs1 c).winner, ← (hs1 c).chan]
  exact (hd c ha).2.2.symm

/-- A report that differs recombines the record; one that does not changes nothing. -/
theorem setOwnReport_finish_redemands (r : Report) :
    ((v.setOwnReport r).finish s0).Redemands s (v.withReport r) := by
  unfold State.setOwnReport State.withReport
  split
  · exact finish_redemands_same hs s0
  · exact setAtrium_finish_redemands hd (v := { v with wx.own := r }) (fun c => ⟨(hs c).settings, (hs c).chan⟩) s0 _

end

/-! ## Readings in and out of range (R53, R56) -/

theorem plateInRange_of_le {raw : Raw} (hlo : 4 ≤ raw.toNat) (hhi : raw.toNat ≤ 1019) : plateInRange raw = true := by
  simp [plateInRange, hlo, hhi]

theorem plateInRange_of_out {raw : Raw} (h : raw.toNat < 4 ∨ 1019 < raw.toNat) : plateInRange raw = false := by
  simp only [plateInRange, Bool.and_eq_false_iff, decide_eq_false_iff_not]
  omega

/-! ## Rain scans (R53, R54) -/

theorem scanRain_faulty {raw : Raw} (s : State) (h : raw.toNat < 4 ∨ 1019 < raw.toNat) :
    s.scanRain raw = State.setOwnReport
      { s with
        wx.rainTimer := some s.fields.rainPeriod, wx.wetRun := 0, wx.dryRun := 0, sup.faults := insertCode 9 s.sup.faults }
      { s.wx.own with rain := none } := by
  unfold State.scanRain
  rw [plateInRange_of_out h]
  rfl

section
variable {raw : Raw} {s : State} {wet : Bool} (hlo : 4 ≤ raw.toNat) (hhi : raw.toNat ≤ 1019)
include hlo hhi

/-- The second wet scan in a row is the one that a wet run of at least 1 meets. -/
theorem scanRain_wet (ht : raw.toNat < s.fields.rainThreshold) (hwet : wet = (s.wx.rainFlag || decide (1 ≤ s.wx.wetRun))) :
    s.scanRain raw = State.setOwnReport
      { s with
        wx.rainTimer := some s.fields.rainPeriod, wx.wetRun := min 2 (s.wx.wetRun + 1), wx.dryRun := 0, wx.rainFlag := wet
        sup.faults := s.sup.faults.filter (fun n => n != 9) }
      { s.wx.own with rain := some wet } := by
  have hrun : decide (min 2 (s.wx.wetRun + 1) = 2) = decide (1 ≤ s.wx.wetRun) := decide_eq_decide.2 (by omega)
  subst hwet
  unfold State.scanRain WeatherUnit.wetScan
  simp only [plateInRange_of_le hlo hhi, ht, hrun, if_true]
  rfl

/-- The run of dry scans, held at n, is below n where one more scan stays below it. -/
theorem scanRain_dry {n : Nat} (ht : s.fields.rainThreshold ≤ raw.toNat)
    (hn : n = s.fields.rainHold * 60000 / s.fields.rainPeriod)
    (hwet : wet = (s.wx.rainFlag && decide (s.wx.dryRun + 1 < n))) :
    s.scanRain raw = State.setOwnReport
      { s with
        wx.rainTimer := some s.fields.rainPeriod, wx.wetRun := 0, wx.dryRun := min n (s.wx.dryRun + 1), wx.rainFlag := wet
        sup.faults := s.sup.faults.filter (fun n => n != 9) }
      { s.wx.own with rain := some wet } := by
  have hneeded : s.fields.dryNeeded = n := hn.symm
  have hrun : decide (min n (s.wx.dryRun + 1) < n) = decide (s.wx.dryRun + 1 < n) := decide_eq_decide.2 (by omega)
  subst hwet
  unfold State.scanRain WeatherUnit.dryScan
  simp only [plateInRange_of_le hlo hhi, Nat.not_lt.2 ht, hneeded, hrun, if_true, if_false]
  rfl

end

theorem exec_rainScan (raw : Raw) {s : State} (ht : s.wx.rainTimer.isSome = true) :
    exec (.rainScan raw) s = .next ((s.scanRain raw).finish s) := by
  show execRainScan raw s = _
  rw [execRainScan, if_pos ht]

/-- A scan that comes down to a new own report, in a state whose channels and settings are as before it. -/
theorem rainScan_redemands {raw : Raw} {s u : State} {r : Report} (ht : s.wx.rainTimer.isSome = true) (hd : s.DemandsFollow)
    (hscan : s.scanRain raw = u.setOwnReport r) (hs : ∀ c, Alike s u c) :
    completes (.rainScan raw) s (fun t => t.Redemands s (u.withReport r)) := by
  refine ⟨_, exec_rainScan raw ht, ?_⟩
  rw [hscan]
  exact setOwnReport_finish_redemands hd hs s r

/-- Settles O39: each scan is a change of the runs, the fault set and the own report, and ends as a change of the report does. -/
theorem rainScanned : Obligations.RainScanned :=
  ⟨fun _ s ht hd hout => rainScan_redemands ht hd (scanRain_faulty s hout) fun _ => ⟨rfl, rfl⟩,
    fun _ _ _ ht hd hlo hhi hth hwet => rainScan_redemands ht hd (scanRain_wet hlo hhi hth hwet) fun _ => ⟨rfl, rfl⟩,
    fun _ _ _ _ ht hd hlo hhi hth hn hwet =>
      rainScan_redemands ht hd (scanRain_dry hlo hhi hth hn hwet) fun _ => ⟨rfl, rfl⟩⟩

end Sys2Proof.Machine
end

section
/-! Heat (R56 to R59): the runs and the alarm of each sample, and the end of a command that changes the causes of the local fire (R74). -/

namespace Sys2Proof.Machine

open Sys2Proof

/-! ## The pulse timer (R79) -/

/-- A state with another pulse timer and pulse request. -/
def State.withPulses (s : State) (timer : Timer) (requested : Bool) : State :=
  { s with fire.pulseTimer := timer, line.pulseRequested := requested }

/-- The pulse timer as R79 leaves it: what is left of it, or 5 s, while the pulses are due. -/
def State.pulseTimerDue (s : State) : Timer := if s.pulsesDue then some (s.fire.pulseTimer.getD 5000) else none

/-- The pulse request as R79 leaves it: made where the timer starts, but not while LINE_STUCK stands (R14). -/
def State.pulseRequestDue (s : State) : Bool :=
  s.line.pulseRequested || (s.pulsesDue && s.fire.pulseTimer.isNone && !s.sup.faults.contains 1)

/-- The pulse timer and the pulse request are all that R79 touches. -/
theorem evalPulse_eq (s : State) : s.evalPulse = s.withPulses s.pulseTimerDue s.pulseRequestDue := by
  have hself : s = s.withPulses s.fire.pulseTimer s.line.pulseRequested := rfl
  cases hdue : s.pulsesDue
  case false => simp [State.evalPulse, State.withPulses, State.pulseTimerDue, State.pulseRequestDue, hdue]
  case true =>
    cases htimer : s.fire.pulseTimer
    case none =>
      by_cases hstuck : 1 ∈ s.sup.faults <;>
        simp [State.evalPulse, State.requestPulse, State.withPulses, State.pulseTimerDue, State.pulseRequestDue, hdue, htimer,
          hstuck]
    case some n =>
      have htimerDue : s.pulseTimerDue = s.fire.pulseTimer := by simp [State.pulseTimerDue, hdue, htimer]
      have hrequestDue : s.pulseRequestDue = s.line.pulseRequested := by simp [State.pulseRequestDue, htimer]
      rw [htimerDue, hrequestDue, ← hself]
      simp [State.evalPulse, hdue, htimer]

theorem pulsesDue_of_kept {s t : State} (h : t.kept = s.kept) : t.pulsesDue = s.pulsesDue := by
  obtain ⟨-, -, -, -, -, -, hfire, -⟩ := kept_eq h
  obtain ⟨-, -, -, -, -, -, -, -, hisolation, -⟩ := kept_line h
  simp only [State.pulsesDue, State.localFire, starting_of_kept h, hfire, hisolation]

/-- R79 reads nothing that demands and starts change. -/
theorem evalPulse_kept_of_kept {s t : State} (h : t.kept = s.kept) : t.evalPulse.kept = s.evalPulse.kept := by
  obtain ⟨-, -, -, -, -, -, hfire, -⟩ := kept_eq h
  obtain ⟨-, -, -, -, -, -, -, -, -, -, -, -, hrequested, -⟩ := kept_line h
  have hstuck : t.sup.faults.contains 1 = s.sup.faults.contains 1 := by
    rw [Bool.eq_iff_iff, List.contains_iff_mem, List.contains_iff_mem]
    exact kept_faults h rfl
  have htimerDue : t.pulseTimerDue = s.pulseTimerDue := by
    simp only [State.pulseTimerDue, pulsesDue_of_kept h, hfire]
  have hrequestDue : t.pulseRequestDue = s.pulseRequestDue := by
    simp only [State.pulseRequestDue, pulsesDue_of_kept h, hfire, hrequested, hstuck]
  rw [evalPulse_eq, evalPulse_eq, htimerDue, hrequestDue]
  exact congrArg (State.withPulses · s.pulseTimerDue s.pulseRequestDue) h

theorem evalPulse_chan (s : State) (c : Chan) : s.evalPulse.chan c = s.chan c := by rw [evalPulse_eq]; rfl
theorem evalPulse_bud (s : State) : s.evalPulse.bud = s.bud := by rw [evalPulse_eq]; rfl
theorem evalPulse_shown (s : State) : s.evalPulse.shown = s.shown := by rw [evalPulse_eq]; rfl

/-- The fire demands do not read the pulses. -/
theorem evalPulse_withFire_alike (s : State) (c : Chan) : Alike s.evalPulse.withFire s.withFire c := by
  rw [evalPulse_eq]
  exact ⟨rfl, rfl⟩

/-! ## The causes of the local fire (R25, R26, R74, R75) -/

/-- The causes of the local fire with the notice they call for queued and the own origin in or out: what R74 does before the demands. -/
def State.causesNoted (s : State) (contact heat : Bool) : State :=
  if contact || heat then State.queueFire { s with fire.contact := contact, fire.heat := heat }
  else State.queueFireClear { s with fire.contact := contact, fire.heat := heat }

theorem queueNotice_settings (s : State) (n : Notice) : (s.queueNotice n).settings = s.settings := by
  unfold State.queueNotice State.testBreak
  simp only
  repeat' split
  all_goals rfl

theorem withdraw_settings (s : State) (key : Kind × Option Zone) : (s.withdraw key).settings = s.settings := by
  unfold State.withdraw
  split <;> rfl

theorem queueNotice_fire (s : State) (n : Notice) : (s.queueNotice n).fire = s.fire := by
  unfold State.queueNotice State.testBreak
  simp only
  repeat' split
  all_goals rfl

theorem withdraw_fire (s : State) (key : Kind × Option Zone) : (s.withdraw key).fire = s.fire := by
  unfold State.withdraw
  split <;> rfl

theorem causesNoted_alike (s : State) (contact heat : Bool) (c : Chan) : Alike s (s.causesNoted contact heat) c := by
  have h : ∀ (u : State) key n, Alike u ((u.withdraw key).queueNotice n) c := fun u key n =>
    ⟨((queueNotice_settings _ n).trans (withdraw_settings u key)).symm,
      (chan_of_ch ((queueNotice_ch _ n).trans (withdraw_ch u key)) c).symm⟩
  unfold State.causesNoted State.queueFire State.queueFireClear State.joinZone State.leaveZone
  split
  · have h1 := h { s with fire.contact := contact, fire.heat := heat } (.fireClear, some s.zone) (.fire s.zone contact heat)
    exact ⟨h1.settings, h1.chan⟩
  · have h1 := h { s with fire.contact := contact, fire.heat := heat } (.fire, some s.zone) (.fireClear s.zone)
    exact ⟨h1.settings, h1.chan⟩

theorem setCauses_eq {s : State} {contact heat : Bool} (h : ¬(s.fire.contact = contact ∧ s.fire.heat = heat)) :
    s.setCauses contact heat = (s.causesNoted contact heat).refreshFire.evalPulse := by
  unfold State.setCauses
  rw [if_neg h]
  rfl

theorem withCauses_eq (s : State) (contact heat : Bool) :
    s.withCauses contact heat = (s.causesNoted contact heat).evalPulse.withFire := by
  unfold State.withCauses State.causesNoted State.queueFire State.queueFireClear State.joinZone State.leaveZone joinOrigin leaveOrigin
  simp only [queueNotice_fire, withdraw_fire, Bool.or_eq_true, List.contains_iff_mem, decide_eq_true_eq]
  split <;> rfl

/-- The end of a command that changes the causes: the demands follow before the pulses do, and neither reads the other. -/
theorem setCauses_finish_redemands {s v : State} {contact heat : Bool} (s0 : State)
    (h : ¬(v.fire.contact = contact ∧ v.fire.heat = heat)) (hs : ∀ c, Alike s v c) :
    ((v.setCauses contact heat).finish s0).Redemands s (v.withCauses contact heat) := by
  rw [setCauses_eq h, withCauses_eq]
  have hnoted : ∀ c, Alike s (v.causesNoted contact heat) c := fun c =>
    have h1 := causesNoted_alike v contact heat c
    ⟨(hs c).settings.trans h1.settings, (hs c).chan.trans h1.chan⟩
  generalize v.causesNoted contact heat = u at hnoted
  have hands := refreshFire_handsOver u
  have hchan : ∀ c, u.evalPulse.withFire.chan c = u.withFire.chan c := fun c => (evalPulse_withFire_alike u c).chan
  refine finish_redemands ?kept (fun c => ?held) (fun c hw => ?settled) ?lighter (fun c ha hw hn _ => ?posted) ?shown
  case kept => exact evalPulse_kept_of_kept (refreshFire_kept u)
  case held =>
    rw [evalPulse_chan, hchan]
    exact hands.held c
  case settled =>
    rw [evalPulse_chan, hchan]
    rw [(evalPulse_withFire_alike u c).winner, hchan] at hw
    exact hands.settled (fun _ _ => rfl) c hw
  case lighter =>
    have hlighter : Lighter u.refreshFire u := eachChan_lighter u fun c s => refreshFireChan_lighter s c
    exact (Lighter.of_bud (evalPulse_bud _)).trans (hlighter.trans (Lighter.of_bud (evalPulse_bud u).symm))
  case posted =>
    rw [hchan] at ha hn
    rw [evalPulse_chan, (evalPulse_withFire_alike u c).recompute.chan]
    have hpresent : (u.chan c).state ≠ .absent := fun e => ha (by rw [State.withFire, chan_onPresent, if_pos e, e])
    rw [(hnoted c).winner, (hnoted c).chan] at hw
    rw [State.withFire, chan_onPresent, if_neg hpresent, (hnoted c).chan] at hn
    obtain ⟨w, hkept, hmet, hdone⟩ := hands.chan c
    exact hdone.trans (hands.posted c w hkept hmet hpresent hw hn)
  case shown =>
    calc u.refreshFire.evalPulse.shown = u.refreshFire.shown := evalPulse_shown _
      _ = u.shown := eachChan_keeps State.shown _ (fun c s => refreshFireChan_shown s c) u
      _ = u.evalPulse.shown := (evalPulse_shown u).symm

/-! ## The ring and the runs (R57 to R59) -/

/-- A full ring loses its oldest as the newest joins. -/
theorem joinRing_eq {α : Type} {capacity : Nat} (hc : 0 < capacity) (ring : List α) (a : α) :
    joinRing capacity ring a = (ring ++ [a]).drop (ring.length + 1 - capacity) := by
  unfold joinRing
  split
  · rw [List.drop_append_of_le_length (by omega)]
  · rw [show ring.length + 1 - capacity = 0 by omega, List.drop_zero]

/-- The newest of the ring is the sample that joined it. -/
theorem rateHolds_joinRing (rr : Nat) (ring : List Int) (x : Int) :
    rateHolds rr (joinRing 61 ring x) =
      decide ((joinRing 61 ring x).length = 61 ∧ (rr : Int) ≤ x - (joinRing 61 ring x).headD 0) := by
  have hnewest : (joinRing 61 ring x).getLastD 0 = x := by simp [joinRing]
  rw [rateHolds, hnewest, Bool.decide_and]

/-- The Weather Unit with the ring and the runs of an in-range sample. -/
def WeatherUnit.withRuns (w : WeatherUnit) (ring : List Int) (fixed rising calm : Nat) : WeatherUnit :=
  { w with heatTimer := some 1000, heatRing := ring, fixedRun := fixed, rateRun := rising, clearRun := calm }

theorem heatRuns_eq {w : WeatherUnit} {th rr fixed rising calm : Nat} {x : Int} {ring : List Int} {rate : Bool}
    (hring : ring = (w.heatRing ++ [x]).drop (w.heatRing.length + 1 - 61))
    (hrate : rate = decide (ring.length = 61 ∧ (rr : Int) ≤ x - ring.headD 0))
    (hfixed : fixed = if (th : Int) ≤ x then w.fixedRun + 1 else 0) (hrising : rising = if rate then w.rateRun + 1 else 0)
    (hcalm : calm = if w.heatAlarm && decide (x < (th : Int) - 50) && !rate then w.clearRun + 1 else 0) :
    WeatherUnit.heatRuns { w with heatTimer := some 1000 } th rr x = w.withRuns ring fixed rising calm := by
  have hjoin : joinRing 61 w.heatRing x = ring := (joinRing_eq (by decide) _ _).trans hring.symm
  have hholds : rateHolds rr ring = rate := by rw [hrate, ← hjoin, rateHolds_joinRing]
  unfold WeatherUnit.heatRuns WeatherUnit.withRuns
  simp only [hjoin, hholds, hfixed, hrising, hcalm]

section
variable {w : WeatherUnit} (ring : List Int) (fixed rising calm : Nat)

theorem withRuns_alarmAfter_of_clear (h : w.heatAlarm = false) :
    (w.withRuns ring fixed rising calm).alarmAfter = decide (fixed = 3 ∨ rising = 3) := by
  simp [WeatherUnit.alarmAfter, WeatherUnit.withRuns, h]

theorem withRuns_alarmAfter_of_set (h : w.heatAlarm = true) :
    (w.withRuns ring fixed rising calm).alarmAfter = decide (calm ≠ 300) := by
  simp [WeatherUnit.alarmAfter, WeatherUnit.withRuns, h]

theorem withRuns_resetClear :
    (w.withRuns ring fixed rising calm).resetClear = w.withRuns ring fixed rising (if calm = 300 then 0 else calm) := by
  unfold WeatherUnit.resetClear WeatherUnit.withRuns
  split <;> rfl

end

/-! ## Heat samples -/

theorem sampleHeat_faulty {raw : Raw} (s : State) (h : raw.toNat < 4 ∨ 1019 < raw.toNat) :
    s.sampleHeat raw =
      { s with
        wx.heatTimer := some 1000, wx.heatRing := [], wx.fixedRun := 0, wx.rateRun := 0, wx.clearRun := 0
        sup.faults := insertCode 8 s.sup.faults } := by
  unfold State.sampleHeat
  rw [plateInRange_of_out h]
  rfl

theorem exec_heatSample (raw : Raw) {s : State} (ht : s.wx.heatTimer.isSome = true) :
    exec (.heatSample raw) s = .next ((s.sampleHeat raw).finish s) := by
  show execHeatSample raw s = _
  rw [execHeatSample, if_pos ht]

section
variable {raw : Raw} {s : State} {x : Int} {ring : List Int} {fixed rising calm : Nat}
  (hlo : 4 ≤ raw.toNat) (hhi : raw.toNat ≤ 1019) (hx : x = temperature s.fields.cal s.fields.sHeat raw)
  (hruns : WeatherUnit.heatRuns { s.wx with heatTimer := some 1000 } s.fields.th s.fields.rr x =
    s.wx.withRuns ring fixed rising calm)
include hlo hhi hx hruns

/-- A sample after which the alarm stands as before. -/
theorem sampleHeat_same (ha : (s.wx.withRuns ring fixed rising calm).alarmAfter = s.wx.heatAlarm) (hc : calm ≠ 300) :
    s.sampleHeat raw =
      { s with wx := s.wx.withRuns ring fixed rising calm, sup.faults := s.sup.faults.filter (fun n => n != 8) } := by
  unfold State.sampleHeat
  simp only [plateInRange_of_le hlo hhi, ← hx, hruns, withRuns_resetClear, if_neg hc, if_true]
  exact if_pos ha

/-- A sample that sets or clears the alarm: the HEAT cause follows it (R59). -/
theorem sampleHeat_changed {alarm : Bool} (ha : (s.wx.withRuns ring fixed rising calm).alarmAfter = alarm)
    (hne : alarm ≠ s.wx.heatAlarm) :
    s.sampleHeat raw = State.setCauses
      { s with
        wx := { s.wx.withRuns ring fixed rising (if calm = 300 then 0 else calm) with heatAlarm := alarm }
        sup.faults := s.sup.faults.filter (fun n => n != 8) }
      s.fire.contact alarm := by
  unfold State.sampleHeat
  simp only [plateInRange_of_le hlo hhi, ← hx, hruns, withRuns_resetClear, ha, if_true]
  exact if_neg hne

end

/-- Settles O40: the runs of the sample decide whether the alarm changes, and with it the HEAT cause, which stood as the alarm did. -/
theorem heatSampled : Obligations.HeatSampled := by
  refine ⟨fun raw s ht hout => ⟨_, exec_heatSample raw ht, ?faulty⟩,
    fun raw x ring rate fixed rising s ht hlo hhi hx hring hrate hfixed hrising halarm hheat =>
      ⟨_, exec_heatSample raw ht, ?clear⟩,
    fun raw x ring rate fixed rising calm s ht hlo hhi hx hring hrate hfixed hrising hcalm halarm hheat =>
      ⟨_, exec_heatSample raw ht, ?set⟩⟩
  case faulty =>
    rw [sampleHeat_faulty s hout]
    exact finish_follows _ s
  case clear =>
    have hruns := heatRuns_eq (calm := 0) hring hrate hfixed hrising (by simp [halarm])
    have hafter := withRuns_alarmAfter_of_clear ring fixed rising 0 halarm
    refine ⟨fun hf hr => ?still, fun h => ?alarms⟩
    case still =>
      rw [sampleHeat_same hlo hhi hx hruns (by rw [hafter, halarm]; simp [hf, hr]) (by decide)]
      exact finish_follows _ s
    case alarms =>
      rw [sampleHeat_changed hlo hhi hx hruns (hafter.trans (decide_eq_true h)) (by rw [halarm]; decide)]
      exact setCauses_finish_redemands s (fun hsame => by simp [hheat] at hsame) fun _ => ⟨rfl, rfl⟩
  case set =>
    have hruns := heatRuns_eq (calm := calm) hring hrate hfixed hrising (by simp [hcalm, halarm])
    have hafter := withRuns_alarmAfter_of_set ring fixed rising calm halarm
    refine ⟨fun h => ?still, fun h => ?clears⟩
    case still =>
      rw [sampleHeat_same hlo hhi hx hruns (by rw [hafter, halarm]; simp [h]) h]
      exact finish_follows _ s
    case clears =>
      rw [sampleHeat_changed hlo hhi hx hruns (alarm := false) (by rw [hafter]; simp [h]) (by rw [halarm]; decide), if_pos h]
      exact setCauses_finish_redemands s (fun hsame => by simp [hheat] at hsame) fun _ => ⟨rfl, rfl⟩

end Sys2Proof.Machine
end

section
/-! The atrium weather record (R60 to R64): the participating reports, the first in the ranking, the largest gust, and the record that a
recombination forms of them. -/

namespace Sys2Proof.Machine

open Sys2Proof

/-! ## The participating reports (R60) -/

/-- The own report of a sensor station, and every offered report of a peer. -/
theorem mem_reports {s : State} {bay : Nat} {r : Report} :
    (bay, r) ∈ s.reports ↔ (s.sensorStation = true ∧ bay = s.bay ∧ r = s.wx.own) ∨
      ∃ e ∈ s.peer.entries, e.bay = bay ∧ ∃ h ∈ e.weather, h.offered = true ∧ h.report = r := by
  unfold State.reports
  rw [List.mem_append]
  refine or_congr ?own ?offered
  case own => cases s.sensorStation <;> simp
  case offered =>
    rw [List.mem_filterMap]
    refine exists_congr fun e => and_congr_right fun _ => ?_
    cases e.weather with
    | none => simp
    | some h => cases hoffered : h.offered <;> simp [hoffered]

theorem mem_meanReports {l : List (Nat × Report)} {bay w v : Nat} :
    (bay, w, v) ∈ meanReports l ↔ ∃ r, (bay, r) ∈ l ∧ r.mean = some w ∧ v = w := by
  simp only [meanReports, List.mem_filterMap, Option.map_eq_some_iff, Prod.exists, Prod.mk.injEq]
  constructor
  · rintro ⟨b, r, hr, m, hm, rfl, rfl, rfl⟩
    exact ⟨r, hr, hm, rfl⟩
  · rintro ⟨r, hr, hm, rfl⟩
    exact ⟨bay, r, hr, v, hm, rfl, rfl, rfl⟩

theorem mem_directedReports {l : List (Nat × Report)} {bay w d : Nat} :
    (bay, w, d) ∈ directedReports l ↔ ∃ r, (bay, r) ∈ l ∧ r.mean = some w ∧ r.direction = some d := by
  simp only [directedReports, List.mem_filterMap, Prod.exists]
  constructor
  · rintro ⟨b, r, hr, hsome⟩
    cases hm : r.mean <;> cases hd : r.direction <;> simp [hm, hd] at hsome
    obtain ⟨rfl, rfl, rfl⟩ := hsome
    exact ⟨r, hr, hm, hd⟩
  · rintro ⟨r, hr, hm, hd⟩
    exact ⟨bay, r, hr, by simp [hm, hd]⟩

/-! ## The ranking (R61) -/

theorem ranksBefore_iff (a b : Nat × Nat) : ranksBefore a b = true ↔ b.2 < a.2 ∨ (a.2 = b.2 ∧ a.1 < b.1) := by
  simp [ranksBefore]

/-- There is a first in the ranking where there is a report. -/
theorem firstRanked_eq_none {l : List (Nat × Nat × Nat)} : firstRanked l = none ↔ l = [] := by
  cases l with
  | nil => simp [firstRanked]
  | cons a rest =>
    unfold firstRanked
    split
    · simp
    · split <;> simp

/-- The first in the ranking is one of the reports, and none ranks before it. -/
theorem firstRanked_spec {l : List (Nat × Nat × Nat)} {b : Nat × Nat × Nat} (h : firstRanked l = some b) :
    b ∈ l ∧ ∀ a ∈ l, ¬ranksBefore (a.1, a.2.1) (b.1, b.2.1) = true := by
  induction l generalizing b with
  | nil => cases h
  | cons a rest ih =>
    simp only [ranksBefore_iff, List.forall_mem_cons] at ih ⊢
    unfold firstRanked at h
    split at h
    case h_1 hrest =>
      cases h
      rw [firstRanked_eq_none.1 hrest]
      exact ⟨List.mem_cons_self, by omega, nofun⟩
    case h_2 f hrest =>
      obtain ⟨hmem, hfirst⟩ := ih hrest
      split at h
      case isTrue hbefore =>
        cases h
        rw [ranksBefore_iff] at hbefore
        exact ⟨List.mem_cons_of_mem a hmem, by omega, hfirst⟩
      case isFalse hafter =>
        cases h
        rw [ranksBefore_iff] at hafter
        exact ⟨List.mem_cons_self, by omega, fun e he => by have := hfirst e he; omega⟩

/-! ## The largest gust (R61) -/

theorem foldl_largest (l : List Nat) (a : Nat) :
    l.foldl (fun acc g => some (max g (acc.getD 0))) (some a) = some (l.foldl max a) := by
  induction l generalizing a with
  | nil => rfl
  | cons b rest ih => rw [List.foldl_cons, List.foldl_cons, Option.getD_some, ih, max_comm]

theorem largestGust_eq_max? (l : List (Nat × Report)) : largestGust l = (l.filterMap (fun e => e.2.gust)).max? := by
  unfold largestGust
  cases l.filterMap (fun e => e.2.gust) with
  | nil => rfl
  | cons a rest =>
    rw [List.foldl_cons, List.max?_cons', foldl_largest]
    simp

/-! ## The record (R61 to R63) -/

theorem combined_of_none {s : State} (h : firstRanked (meanReports s.reports) = none) :
    s.combined = ⟨0, none, 0, s.reports.any (fun e => decide (e.2.rain = some true)), true, true, none⟩ := by
  unfold State.combined
  simp only [h]

theorem combined_of_first {s : State} {b : Nat × Nat × Nat} (h : firstRanked (meanReports s.reports) = some b) :
    s.combined =
      { w := b.2.1
        d := (firstRanked (directedReports s.reports)).map (fun e => e.2.2)
        g := (largestGust s.reports).getD b.2.1
        rain := s.reports.any (fun e => decide (e.2.rain = some true))
        unknown := false
        storm := (s.stormAfter ((largestGust s.reports).getD b.2.1)).1
        stormTimer := (s.stormAfter ((largestGust s.reports).getD b.2.1)).2 } := by
  obtain ⟨bay, w, v⟩ := b
  unfold State.combined
  simp only [h]

/-- A report with a mean gives the ranking a first. -/
theorem firstRanked_isSome_of_mem {l : List (Nat × Nat × Nat)} {a : Nat × Nat × Nat} (h : a ∈ l) :
    ∃ b, firstRanked l = some b := by
  rw [← Option.isSome_iff_exists, Option.isSome_iff_ne_none, ne_eq, firstRanked_eq_none]
  exact List.ne_nil_of_mem h

/-- No report has a larger mean than the first. -/
theorem firstRanked_mean {l : List (Nat × Report)} {e : Nat × Report} {m : Nat} (he : e ∈ l) (hm : e.2.mean = some m)
    (hfirst : ∀ x ∈ l, ∀ n ∈ x.2.mean, n < m ∨ (n = m ∧ e.1 ≤ x.1)) :
    ∃ b, firstRanked (meanReports l) = some b ∧ b.2.1 = m := by
  have hmem : (e.1, m, m) ∈ meanReports l := mem_meanReports.2 ⟨e.2, he, hm, rfl⟩
  obtain ⟨⟨bay, w, v⟩, hb⟩ := firstRanked_isSome_of_mem hmem
  obtain ⟨hbmem, hnone⟩ := firstRanked_spec hb
  obtain ⟨r, hr, hw, -⟩ := mem_meanReports.1 hbmem
  have hle := hfirst _ hr w hw
  have hge := hnone _ hmem
  rw [ranksBefore_iff] at hge
  exact ⟨_, hb, by simp only at hge ⊢; omega⟩

/-- Of the reports with a mean and a direction, one that ranks before every other is the first. -/
theorem firstRanked_direction {l : List (Nat × Report)} {e : Nat × Report} {m d : Nat} (he : e ∈ l) (hm : e.2.mean = some m)
    (hd : e.2.direction = some d)
    (hfirst : ∀ x ∈ l, x.2.direction.isSome = true → ∀ n ∈ x.2.mean, n < m ∨ (n = m ∧ (e.1 < x.1 ∨ e = x))) :
    (firstRanked (directedReports l)).map (fun e => e.2.2) = some d := by
  have hmem : (e.1, m, d) ∈ directedReports l := mem_directedReports.2 ⟨e.2, he, hm, hd⟩
  obtain ⟨⟨bay, w, v⟩, hb⟩ := firstRanked_isSome_of_mem hmem
  obtain ⟨hbmem, hnone⟩ := firstRanked_spec hb
  obtain ⟨r, hr, hw, hv⟩ := mem_directedReports.1 hbmem
  have hge := hnone _ hmem
  rw [ranksBefore_iff] at hge
  rw [hb, Option.map_some, ← hd]
  rcases hfirst _ hr (by rw [hv]; rfl) w hw with hlt | ⟨rfl, hlt | rfl⟩
  · exact absurd (.inl hlt) hge
  · exact absurd (.inr ⟨rfl, hlt⟩) hge
  · exact hv.symm

theorem meanReports_eq_nil {l : List (Nat × Report)} (h : ∀ e ∈ l, e.2.mean = none) : meanReports l = [] :=
  List.filterMap_eq_nil_iff.2 fun e he => by rw [h e he, Option.map_none]

theorem directedReports_eq_nil {l : List (Nat × Report)} (h : ∀ e ∈ l, e.2.mean.isSome = true → e.2.direction = none) :
    directedReports l = [] := by
  refine List.filterMap_eq_nil_iff.2 fun e he => ?_
  cases hm : e.2.mean with
  | none => rfl
  | some m => rw [h e he (by rw [hm]; rfl)]

/-! ## Storm (R63, R64) -/

theorem stormAfter_of_clear {s : State} (g : Nat) (h : s.wx.atrium.storm = false) :
    s.stormAfter g = (decide (s.fields.wStorm ≤ g), none) := by
  simp [State.stormAfter, h]

theorem stormAfter_of_storm {s : State} (g : Nat) (h : s.wx.atrium.storm = true) :
    s.stormAfter g = (true, if g < max 1 (s.fields.wStorm - s.fields.wHys) then
      some (s.wx.atrium.stormTimer.getD 60000) else none) := by
  unfold State.stormAfter State.stormClearLevel
  rw [if_pos h]
  cases s.wx.atrium.stormTimer <;> split <;> rfl

theorem exec_stormClearExpiry {s : State} (ht : s.wx.atrium.stormTimer.isSome = true) :
    exec .stormClearExpiry s = .next (s.clearStorm.finish s) := by
  show execStormClearExpiry s = _
  rw [execStormClearExpiry, if_pos ht]

theorem handWeather_finish_redemands {s v : State} (hs : ∀ c, Alike s v c) (s0 : State) :
    ((v.eachChan (fun c s => s.handWeather c)).finish s0).Redemands s v.withWeather :=
  (handWeather_handsOver v).finish (fun _ _ => rfl) hs s0

theorem clearStorm_finish_redemands (s : State) : (s.clearStorm.finish s).Redemands s
    (State.withWeather { s with wx.atrium.storm := false, wx.atrium.stormTimer := none }) :=
  handWeather_finish_redemands (s := s) (v := { s with wx.atrium.storm := false, wx.atrium.stormTimer := none })
    (fun _ => ⟨rfl, rfl⟩) s

/-- Settles O41: the record is read off the first in the ranking of each of the two lists, and off the largest gust. -/
theorem atriumCombined : Obligations.AtriumCombined := by
  refine ⟨fun bay r s => mem_reports, fun s hnone => ?unknown, fun s e m he hm hfirst => ?known,
    fun s e m he hm hd hfirst => ?direction, fun s hnone => ?undirected,
    fun s ht => ⟨_, exec_stormClearExpiry ht, clearStorm_finish_redemands s⟩⟩
  case unknown =>
    have hrank : firstRanked (meanReports s.reports) = none := by rw [meanReports_eq_nil hnone]; rfl
    rw [combined_of_none hrank]
    simp only [beq_eq_decide]
  case known =>
    obtain ⟨b, hb, hw⟩ := firstRanked_mean he hm hfirst
    rw [combined_of_first hb, hw, largestGust_eq_max?]
    refine ⟨rfl, rfl, by simp only [beq_eq_decide], rfl, fun h => ?calm, fun h => ?storm⟩
    case calm => simp only [stormAfter_of_clear _ h, and_self]
    case storm => simp only [stormAfter_of_storm _ h, and_self]
  case direction =>
    obtain ⟨d, hd⟩ := Option.isSome_iff_exists.1 hd
    obtain ⟨b, hb⟩ := firstRanked_isSome_of_mem (mem_meanReports.2 ⟨e.2, he, hm, rfl⟩)
    rw [combined_of_first hb, hd]
    exact firstRanked_direction he hm hd hfirst
  case undirected =>
    cases hb : firstRanked (meanReports s.reports) with
    | none => rw [combined_of_none hb]
    | some b =>
      rw [combined_of_first hb, directedReports_eq_nil hnone]
      rfl

end Sys2Proof.Machine
end

section
/-! The windward arithmetic (R62, R65 to R68): the component, the limit and the block of a channel under a record. -/

namespace Sys2Proof.Machine

open Sys2Proof

/-! ## The windward component (R65, R66) -/

/-- No factor is above 256. -/
theorem windFactors_getD_le (i : Nat) : windFactors.getD i 0 ≤ 256 := by
  rw [List.getD_eq_getElem?_getD]
  cases hi : windFactors[i]? with
  | none => exact Nat.zero_le 256
  | some f =>
    have hall : ∀ f ∈ windFactors, f ≤ 256 := by decide
    exact hall f (List.mem_of_getElem? hi)

theorem windward_le (w d facing : Nat) : windward w d facing ≤ w := by
  unfold windward
  simp only
  split
  · exact Nat.zero_le w
  · exact Nat.div_le_of_le_mul (by rw [Nat.mul_comm 256]; exact Nat.mul_le_mul_left w (windFactors_getD_le _))

theorem channelWind_le (r : Atrium) (facing : Nat) : channelWind r facing ≤ r.w := by
  unfold channelWind
  split
  · exact Nat.zero_le r.w
  · cases r.d with
    | none => exact Nat.le_refl r.w
    | some d => exact windward_le r.w d facing

theorem channelWind_of_direction {r : Atrium} {d : Nat} (facing : Nat) (hu : r.unknown = false) (hd : r.d = some d) :
    channelWind r facing = windward r.w d facing := by
  simp [channelWind, hu, hd]

/-! ## The ventilation limit (R67) -/

/-- Between its two ends the limit is a part of 1000. -/
theorem ventLimit_le (f : Fields) (wn w : Nat) : ventLimit f wn w ≤ 1000 := by
  unfold ventLimit
  simp only
  split
  · exact Nat.le_refl 1000
  · split
    · exact Nat.zero_le 1000
    · refine Nat.div_le_of_le_mul ?_
      rw [Nat.mul_comm]
      exact Nat.mul_le_mul_right 1000 (by omega)

theorem channelLimit_le (f : Fields) (r : Atrium) (wn : Nat) : channelLimit f r wn ≤ 1000 := by
  unfold channelLimit
  split
  · exact Nat.zero_le 1000
  · exact ventLimit_le f wn r.w

theorem channelLimit_of_known {r : Atrium} (f : Fields) (wn : Nat) (hu : r.unknown = false) :
    channelLimit f r wn = ventLimit f wn r.w := by
  simp [channelLimit, hu]

/-! ## The fire windward block (R68) -/

section
variable (f : Fields) {outcome : LoadOutcome} {r : Atrium} (block : Bool) (wn : Nat)

/-- With the record unknown, without a direction, or with the configuration LOST there is no block. -/
theorem blockAfter_none (h : r.unknown = true ∨ r.d = none ∨ outcome = .lost) : blockAfter f outcome r block wn = false := by
  unfold blockAfter
  rw [if_pos (by simpa [or_assoc] using h)]

theorem blockAfter_of_direction {d : Nat} (hu : r.unknown = false) (hd : r.d = some d) (ho : outcome ≠ .lost) :
    blockAfter f outcome r block wn = if block then decide (f.wf - f.wHys ≤ wn) else decide (f.wf ≤ wn) := by
  simp [blockAfter, hu, hd, ho]

end

/-- Settles O42: the three results of a channel are read off the component, the limit and the block in turn. -/
theorem windwardResults : Obligations.WindwardResults := by
  refine ⟨fun s r c hu => ?unknown, fun s r c hu hd => ⟨?undirected, blockAfter_none _ _ _ (.inr (.inl hd))⟩,
    fun d a fold s r c hu hd ha hfold => ⟨?component, fun hl => blockAfter_none _ _ _ (.inr (.inr hl)),
      fun hl => blockAfter_of_direction _ _ _ hu hd hl⟩,
    fun weff s r c hu hweff => ?limit, fun s r c => ⟨channelWind_le r _, channelLimit_le _ r _⟩⟩
  case unknown =>
    unfold State.windAfter
    simp only [blockAfter_none _ _ _ (.inl hu)]
    simp [channelWind, channelLimit, hu]
  case undirected => simp [State.windAfter, channelWind, hu, hd]
  case component =>
    subst hfold ha
    exact channelWind_of_direction _ hu hd
  case limit =>
    subst hweff
    exact channelLimit_of_known _ _ hu

end Sys2Proof.Machine
end

section
/-! The mode (R17, R162, R163): the mode with the start-up phase and the isolation condition on which it turns, what each operation makes of
them, and all that a command can do to them. -/

namespace Sys2Proof.Machine

open Sys2Proof

/-! ## The regime -/

/-- The mode, the phase of the start-up sequence, and the isolation condition. -/
structure Regime where
  mode : Mode
  phase : Phase
  isolation : Bool

def State.regime (s : State) : Regime := ⟨s.sup.mode, s.sup.phase, s.line.isolation⟩

/-- The isolation condition set: NORMAL becomes ISOLATED (R17). -/
def Regime.isolate (r : Regime) : Regime :=
  if r.isolation then r else ⟨if r.mode = .normal then .isolated else r.mode, r.phase, true⟩

/-- The isolation condition cleared: ISOLATED becomes NORMAL (R17). -/
def Regime.rejoin (r : Regime) : Regime :=
  if r.isolation then ⟨if r.mode = .isolated then .normal else r.mode, r.phase, false⟩ else r

theorem regime_of_kept {s t : State} (h : t.kept = s.kept) : t.regime = s.regime := by
  have h' := congrArg State.regime h
  exact h'

theorem ite_regime {b : Prop} [Decidable b] {s t u : State} (ht : t.regime = s.regime) (hu : u.regime = s.regime) :
    (if b then t else u).regime = s.regime := by
  split
  · exact ht
  · exact hu

section
variable (s : State)

@[simp] theorem finish_regime (s0 : State) : (s.finish s0).regime = s.regime := regime_of_kept (finish_kept s s0)

theorem faultIf_regime (n : Nat) (b : Bool) : (s.faultIf n b).regime = s.regime := ite_regime rfl rfl

/-! ## The outgoing queue -/

theorem queueNotice_regime (n : Notice) : (s.queueNotice n).regime = s.regime :=
  (regime_of_kept (testBreak_kept _)).trans (ite_regime rfl rfl)

theorem withdraw_regime (key : Kind × Option Zone) : (s.withdraw key).regime = s.regime := ite_regime rfl rfl

theorem queueHealth_regime : s.queueHealth.regime = s.regime := queueNotice_regime s _

theorem queueWeather_regime : s.queueWeather.regime = s.regime := queueNotice_regime s _

theorem queueOverride_regime : s.queueOverride.regime = s.regime := queueNotice_regime s _

/-! ## Sources and maps -/

theorem setVentMap_regime (m : List VentOrigin) : (s.setVentMap m).regime = s.regime :=
  (regime_of_kept (setVentMap_kept s m)).trans rfl

theorem setOverrides_regime (l : List OverrideOrigin) : (s.setOverrides l).regime = s.regime :=
  (regime_of_kept (setOverrides_kept s l)).trans rfl

theorem queueVentilate_regime : s.queueVentilate.regime = s.regime :=
  ite_regime ((setVentMap_regime _ _).trans (queueNotice_regime s _)) (queueNotice_regime s _)

theorem recombine_regime : s.recombine.regime = s.regime :=
  (regime_of_kept (setAtrium_kept s s.combined)).trans (faultIf_regime _ _ _)

theorem setOwnReport_regime (r : Report) : (s.setOwnReport r).regime = s.regime := ite_regime rfl (recombine_regime _)

theorem setOwnOverride_regime : s.setOwnOverride.regime = s.regime := by
  unfold State.setOwnOverride
  split <;> exact setOverrides_regime s _

theorem takeFkey_regime (pos : KeyPos) : (s.takeFkey pos).regime = s.regime :=
  (setOwnOverride_regime _).trans (queueOverride_regime _)

theorem takeLkey_regime (pos : KeyPos) : (s.takeLkey pos).regime = s.regime :=
  (eachChan_keeps State.regime _ (fun c s => regime_of_kept (handLocal_kept s c)) _).trans rfl

theorem clearStorm_regime : s.clearStorm.regime = s.regime :=
  (eachChan_keeps State.regime _ (fun c s => regime_of_kept (handWeather_kept s c)) _).trans rfl

/-! ## Fire -/

theorem refreshFire_regime : s.refreshFire.regime = s.regime := regime_of_kept (refreshFire_kept s)

theorem startGeneral_regime : s.startGeneral.regime = s.regime := refreshFire_regime _

theorem requestPulse_regime : s.requestPulse.regime = s.regime := ite_regime rfl rfl

theorem evalPulse_regime : s.evalPulse.regime = s.regime := by rw [evalPulse_eq]; rfl

theorem queueFire_regime : s.queueFire.regime = s.regime := (queueNotice_regime _ _).trans (withdraw_regime s _)

theorem queueFireClear_regime : s.queueFireClear.regime = s.regime := (queueNotice_regime _ _).trans (withdraw_regime s _)

theorem causesNoted_regime (contact heat : Bool) : (s.causesNoted contact heat).regime = s.regime :=
  ite_regime (queueFire_regime _) (queueFireClear_regime _)

theorem setCauses_regime (contact heat : Bool) : (s.setCauses contact heat).regime = s.regime :=
  ite_regime rfl ((evalPulse_regime _).trans ((refreshFire_regime _).trans (causesNoted_regime s contact heat)))

theorem loopFaults_regime (cl : LoopClass) : (s.loopFaults cl).regime = s.regime :=
  (faultIf_regime _ _ _).trans ((faultIf_regime _ _ _).trans (faultIf_regime s _ _))

theorem settleLoop_regime (cl : LoopClass) : (s.settleLoop cl).regime = s.regime :=
  ite_regime ((setCauses_regime _ _ _).trans (loopFaults_regime _ cl)) (loopFaults_regime _ cl)

/-! ## Sensors -/

theorem endGate_regime (pulses : Nat) (vane : Raw) : (s.endGate pulses vane).regime = s.regime :=
  (setOwnReport_regime _ _).trans (ite_regime (faultIf_regime _ _ _) rfl)

theorem scanRain_regime (raw : Raw) : (s.scanRain raw).regime = s.regime :=
  ite_regime (setOwnReport_regime _ _) (setOwnReport_regime _ _)

theorem sampleHeat_regime (raw : Raw) : (s.sampleHeat raw).regime = s.regime :=
  ite_regime (ite_regime rfl (setCauses_regime _ _ _)) rfl

/-! ## Drive, limits and supply -/

theorem testStop_regime (c : Chan) : (s.testStop c).regime = s.regime := by
  unfold State.testStop
  repeat' split
  · rfl
  · exact regime_of_kept (by simp)
  · exact regime_of_kept (reachEnd_kept s c .openEnd)
  · rfl

theorem takeStall_regime (c : Chan) : (s.takeStall c).regime = s.regime := by
  unfold State.takeStall
  split
  · exact regime_of_kept (reachReference_kept s c)
  · exact regime_of_kept (reachEnd_kept s c _)
  · exact regime_of_kept (channelFault_kept s c .stall)

theorem endPause_regime (c : Chan) : (s.endPause c).regime = s.regime := regime_of_kept (takeAtRest_kept _ c _)

theorem evalLimits_regime : (s.eachChan (fun c s => s.evalLimit c)).regime = s.regime :=
  eachChan_keeps State.regime _ (fun c s => regime_of_kept (evalLimit_kept s c)) s

theorem startHold_regime : s.startHold.regime = s.regime := evalLimits_regime _

theorem endHold_regime : s.endHold.regime = s.regime := evalLimits_regime _

theorem countTick_regime (c : Chan) : (s.countTick c).regime = s.regime :=
  ite_regime (regime_of_kept (evalLimit_kept _ c)) rfl

theorem endThrottle_regime (c : Chan) : (s.endThrottle c).regime = s.regime := regime_of_kept (evalLimit_kept _ c)

theorem abortProgramming_regime : s.abortProgramming.regime = s.regime := by
  unfold State.abortProgramming
  split <;> rfl

theorem vetoIfFirst_regime : s.vetoIfFirst.regime = s.regime := ite_regime rfl (regime_of_kept (beginSupplyVeto_kept s))

theorem endVetoIfLast_regime : s.endVetoIfLast.regime = s.regime := ite_regime rfl (regime_of_kept (endSupplyVeto_kept s))

theorem setLow_regime : s.setLow.regime = s.regime :=
  ite_regime ((abortProgramming_regime _).trans (vetoIfFirst_regime s)) (vetoIfFirst_regime s)

theorem clearLow_regime : s.clearLow.regime = s.regime := endVetoIfLast_regime _

theorem setHigh_regime : s.setHigh.regime = s.regime := vetoIfFirst_regime s

theorem clearHigh_regime : s.clearHigh.regime = s.regime := endVetoIfLast_regime _

/-! ## The start list and the delivery of notices -/

theorem removeItems_regime (gone rest : List StartItem) : (s.removeItems gone rest).regime = s.regime :=
  (regime_of_kept (removeItems_kept s gone rest)).trans rfl

theorem takeClaim_regime (bay : Nat) (set : Four Bool) (inrush : Nat) (fire : Bool) :
    (s.takeClaim bay set inrush fire).regime = s.regime :=
  ite_regime ((removeItems_regime _ _ _).trans (removeItems_regime s _ _)) (removeItems_regime s _ _)

theorem takeFireClear_regime (bay : Nat) (z : Zone) : (s.takeFireClear bay z).regime = s.regime :=
  (refreshFire_regime _).trans (ite_regime rfl rfl)

theorem takeOverride_regime (bay : Nat) (k : KeyState) : (s.takeOverride bay k).regime = s.regime := by
  cases k <;> exact setOverrides_regime s _

theorem deliver_regime (bay : Nat) (n : Option Notice) : (s.deliver bay n).regime = s.regime := by
  rcases n with - | n
  · rfl
  cases n with
  | status c => rfl
  | health h => rfl
  | weather r => exact recombine_regime _
  | fire z contact heat => exact refreshFire_regime _
  | fireClear z => exact takeFireClear_regime _ bay z
  | override k => exact takeOverride_regime _ bay k
  | claim set inrush fire => exact takeClaim_regime _ bay set inrush fire
  | ventilate zones target => exact setVentMap_regime _ _

/-! ## Characters and attempts -/

theorem completeNotice_regime (chars : List Byte) : (s.completeNotice chars).regime = s.regime :=
  ite_regime rfl (ite_regime rfl (ite_regime rfl (deliver_regime _ _ _)))

theorem readChar_regime (taken : Nat) (char : Byte) (stop : Bool) : (s.readChar taken char stop).regime = s.regime := by
  have hread : (if stop = true then s.readRecessive else s).regime = s.regime := ite_regime rfl rfl
  unfold State.readChar
  dsimp only
  generalize (if stop = true then s.readRecessive else s) = s1 at hread ⊢
  split
  · exact ite_regime hread hread
  · exact hread

theorem takeChar_regime (char : Byte) (stop : Bool) : (s.takeChar char stop).regime = s.regime := by
  unfold State.takeChar
  split
  · have hread := readChar_regime s
    exact ite_regime (ite_regime (hread ..) (hread ..))
      (ite_regime ((completeNotice_regime _ _).trans (hread ..)) ((regime_of_kept (testBreak_kept _)).trans (hread ..)))
  · rfl

theorem takeChars_regime (chars : List Byte) : (s.takeChars chars).regime = s.regime := by
  induction chars generalizing s with
  | nil => rfl
  | cons b rest ih => exact (ih _).trans (takeChar_regime s b true)

theorem startNotice_regime (rest : List Byte) : (s.startNotice rest).regime = s.regime := by
  unfold State.startNotice
  split
  · exact ite_regime rfl rfl
  · rfl

theorem dropEntry_regime (key : Kind × Option Zone) : (s.dropEntry key).regime = s.regime := ite_regime rfl rfl

theorem withdrawIsolated_regime (key : Kind × Option Zone) : (s.withdrawIsolated key).regime = s.regime :=
  ite_regime (withdraw_regime s key) rfl

theorem failAttempt_regime : s.failAttempt.regime = s.regime := by
  unfold State.failAttempt
  split
  · rfl
  · exact (withdrawIsolated_regime _ _).trans (ite_regime (dropEntry_regime _ _) rfl)

theorem reportCompletion_regime (f : Flight) : (s.reportCompletion f).regime = s.regime := by
  unfold State.reportCompletion
  split
  · rfl
  · exact ite_regime rfl rfl
  · rfl

/-! ## Spans -/

theorem cutAtSpan_regime : s.cutAtSpan.regime = s.regime := by
  unfold State.cutAtSpan
  split
  · exact failAttempt_regime s
  · split <;> rfl

theorem reachSpan11_regime : s.reachSpan11.regime = s.regime := ite_regime rfl (cutAtSpan_regime s)

/-! ## The isolation condition (R17) -/

theorem setIsolation_regime : s.setIsolation.regime = s.regime.isolate := by
  cases hset : s.line.isolation
  case true => simp [State.setIsolation, Regime.isolate, State.regime, hset]
  case false =>
    have hisolate : s.regime.isolate = ⟨if s.sup.mode = .normal then .isolated else s.sup.mode, s.sup.phase, true⟩ := by
      simp [Regime.isolate, State.regime, hset]
    rw [hisolate, State.setIsolation, if_neg (by simp [hset])]
    dsimp only
    split
    · next hstarting =>
      have hmode : s.sup.mode = .starting := of_decide_eq_true hstarting
      simp [State.regime, State.addFault, hmode]
    · refine (evalPulse_regime _).trans ((regime_of_kept (giveUpClaims_kept _)).trans ?_)
      by_cases hmode : s.sup.mode = .normal <;> simp [State.regime, State.addFault, hmode]

theorem clearIsolation_regime : s.clearIsolation.regime = s.regime.rejoin := by
  cases hset : s.line.isolation
  case false => simp [State.clearIsolation, Regime.rejoin, State.regime, hset]
  case true =>
    have hrejoin : s.regime.rejoin = ⟨if s.sup.mode = .isolated then .normal else s.sup.mode, s.sup.phase, false⟩ := by
      simp [Regime.rejoin, State.regime, hset]
    rw [hrejoin, State.clearIsolation, if_pos hset]
    refine (evalPulse_regime _).trans ((regime_of_kept (stopIsolatedTimer_kept _)).trans ?_)
    by_cases hmode : s.sup.mode = .isolated <;> simp [State.regime, State.removeFault, hmode]

theorem failEcho_regime : s.failEcho.regime = s.regime ∨ s.failEcho.regime = s.regime.isolate := by
  have hfail : ∀ run, ({ s.failAttempt with line.echoRun := run }.toRecovering).regime = s.regime := fun _ =>
    failAttempt_regime s
  unfold State.failEcho
  dsimp only
  split
  · right
    rw [setIsolation_regime, hfail]
  · exact .inl (hfail _)

theorem echoClean_regime (f : Flight) : (s.echoClean f).regime = s.regime.rejoin :=
  (reportCompletion_regime _ f).trans (clearIsolation_regime _)

theorem reachStuck_regime : s.reachStuck.regime = s.regime.isolate :=
  (setIsolation_regime _).trans (congrArg Regime.isolate (reachSpan11_regime s))

/-- A span whose release finds it as long as LINE_STUCK, not yet reported, isolates; no other release does (R7, R8). -/
theorem releaseSpan_regime (len : Nat) :
    (s.releaseSpan len).regime = s.regime ∨ (s.releaseSpan len).regime = s.regime.isolate := by
  have hspan := reachSpan11_regime s
  unfold State.releaseSpan
  dsimp only
  split
  · exact .inl rfl
  split
  · exact .inl hspan
  split
  · refine .inr ((reachStuck_regime _).trans ?_)
    rw [hspan]
  · exact .inl (ite_regime ((startGeneral_regime _).trans hspan) hspan)

theorem lineAtRelease_regime (released : Option Nat) :
    (s.lineAtRelease released).regime = s.regime ∨ (s.lineAtRelease released).regime = s.regime.isolate := by
  cases released with
  | none => exact .inl rfl
  | some len => exact releaseSpan_regime s _

theorem spanOfBreak_regime : s.releaseTerminal.spanOfBreak.regime = s.regime := reachSpan11_regime s.releaseTerminal

end

/-! ## The service port -/

theorem serve_regime {act : State → State} (hact : ∀ u : State, (act u).regime = u.regime) (s : State) (inRange : Bool) :
    (s.serve inRange act).regime = s.regime := ite_regime rfl (ite_regime rfl (ite_regime rfl (hact s)))

section
variable (s : State)

theorem serveProgram_regime : s.serveProgram.regime = s.regime := ite_regime rfl (ite_regime rfl rfl)

theorem endJog_regime (c : Chan) : (s.endJog c).regime = s.regime := regime_of_kept (endJog_kept s c)

theorem beginJog_regime (c : Chan) (dir : Dir) (time : Nat) : (s.beginJog c dir time).regime = s.regime :=
  ite_regime rfl (regime_of_kept (recompute_kept _ c))

theorem startJog_regime (c : Chan) (dir : Dir) (time : Nat) : (s.startJog c dir time).regime = s.regime :=
  ite_regime rfl ((beginJog_regime _ c dir time).trans (ite_regime (endJog_regime s c) rfl))

theorem requestJog_regime (channel direction time : Nat) : (s.requestJog channel direction time).regime = s.regime := by
  refine serve_regime (fun u => (finish_regime _ u).trans ?_) s _
  unfold State.serveJog
  split
  · exact startJog_regime _ _ _ _
  · rfl

theorem requestStop_regime (channel : Nat) : (s.requestStop channel).regime = s.regime := by
  refine serve_regime (fun u => (finish_regime _ u).trans ?_) s _
  unfold State.serveStop
  split
  · exact ite_regime (endJog_regime _ _) rfl
  · rfl

theorem refuseCode_regime :
    (if s.svc.programming.isSome = true then s.refuse .busy else s.refuse .badCommand).regime = s.regime := ite_regime rfl rfl

/-- The codes with the lengths that the table of R176 gives are served; every other code or length is refused. -/
theorem serveCode_regime : ∀ (code : Nat) (data : List Byte), (s.serveCode code data).regime = s.regime
  | 1, [_] | 2, [_] | 3, [_, _, _] | 5, [] | 8, [_] => serve_regime (by exact fun _ => rfl) s _
  | 4, [] => serve_regime serveProgram_regime s _
  | 6, [_, _, _, _] => requestJog_regime s _ _ _
  | 7, [_] => requestStop_regime s _
  | 1, [] | 1, _ :: _ :: _ | 2, [] | 2, _ :: _ :: _ | 3, [] | 3, [_] | 3, [_, _] | 3, _ :: _ :: _ :: _ :: _
  | 4, _ :: _ | 5, _ :: _ | 6, [] | 6, [_] | 6, [_, _] | 6, [_, _, _] | 6, _ :: _ :: _ :: _ :: _ :: _
  | 7, [] | 7, _ :: _ :: _ | 8, [] | 8, _ :: _ :: _ | 0, _ | _ + 9, _ => refuseCode_regime s

theorem serveFrame_regime (frame : List Byte) : (s.serveFrame frame).regime = s.regime := by
  unfold State.serveFrame
  split
  · rfl
  · split
    · exact serveCode_regime s _ _
    · rfl

theorem takeByte_regime (b : Byte) : (s.takeByte b).regime = s.regime := by
  unfold State.takeByte
  dsimp only
  split
  · exact serveFrame_regime _ _
  · rfl

theorem takeBytes_regime (bytes : List Byte) : (s.takeBytes bytes).regime = s.regime := by
  induction bytes generalizing s with
  | nil => rfl
  | cons b rest ih => exact (ih _).trans (takeByte_regime s b)

/-! ## Start-up (R161, R162) -/

theorem firstDemand_regime (c : Chan) : (s.firstDemand c).regime = s.regime :=
  ite_regime rfl (regime_of_kept (takeAtRest_kept _ c _))

theorem latchSensors_regime (anemoBias : Bool) (vane rain heat : Raw) :
    (s.latchSensors anemoBias vane rain heat).regime = s.regime :=
  have hcode : ∀ (u : State) (b : Bool) (n : Nat), (if b then u.addFault n else u).regime = u.regime := fun _ _ _ =>
    ite_regime rfl rfl
  (hcode _ _ 8).trans ((hcode _ _ 9).trans ((hcode _ _ 48).trans rfl))

theorem endPresence_regime (anemoBias : Bool) (vane rain heat : Raw) (driverFlag : Bool) :
    (s.endPresence anemoBias vane rain heat driverFlag).regime = { s.regime with phase := .listen } := by
  have hdemands : ∀ u : State, (u.startScans.eachChan (fun c s => s.firstDemand c)).regime = u.regime := fun u =>
    (eachChan_keeps State.regime _ (fun c s => firstDemand_regime s c) u.startScans).trans rfl
  have hlatched := (hdemands _).trans
    (latchSensors_regime { s with sup.phase := .listen, sup.listenTimer := some 3000 } anemoBias vane rain heat)
  unfold State.endPresence
  dsimp only
  split
  · exact (startHold_regime _).trans hlatched
  · exact hlatched

theorem enterService_regime : s.enterService.regime = s.regime :=
  (eachChan_keeps State.regime _ (fun c s => regime_of_kept ((handVentilate_kept _ c).trans (handLocal_kept s c))) _).trans rfl

theorem startSchedules_regime : s.startSchedules.regime = s.regime := by
  have hhealth : s.queueStatus.queueHealth.regime = s.regime :=
    (queueHealth_regime _).trans (regime_of_kept (queueStatus_kept s))
  unfold State.startSchedules
  dsimp only
  generalize s.queueStatus.queueHealth = s1 at hhealth ⊢
  have hweather := ite_regime (b := s1.sensorStation = true) ((queueWeather_regime s1).trans hhealth) hhealth
  generalize (if s1.sensorStation = true then s1.queueWeather else s1) = s2 at hweather ⊢
  have hventilate := ite_regime (b := s2.fields.demandFitted = true) ((queueVentilate_regime s2).trans hweather) hweather
  exact ite_regime ((refreshFire_regime _).trans ((queueFire_regime _).trans hventilate)) hventilate

theorem leaveStarting_regime :
    s.leaveStarting.regime = ⟨entryMode s.sup.svcStrap s.line.isolation, .entry, s.line.isolation⟩ := by
  let entered : State := { s with
    sup.phase := .entry, sup.listenTimer := none, sup.mode := entryMode s.sup.svcStrap s.line.isolation }
  have hschedules : ∀ u : State, u.regime = entered.regime → u.startSchedules.regime = entered.regime := fun u hu =>
    (startSchedules_regime u).trans hu
  have hservice : (if s.sup.svcStrap = true then entered.enterService else entered).regime = entered.regime :=
    ite_regime (enterService_regime _) rfl
  have h := hschedules _ hservice
  exact (evalPulse_regime _).trans (ite_regime ((regime_of_kept (setIsolatedTimer_kept _)).trans h) h)

end

/-! ## The commands -/

/-- All that a command can do to the mode, the phase and the isolation condition (R17, R158, R161 to R163). -/
inductive RegimeStep (c : Instr) (s : State) (r : Regime) : Prop
  | unchanged (h : r = s.regime)
  | isolates (h : r = s.regime.isolate)
  | rejoins (h : r = s.regime.rejoin)
  | detected (h : r = { s.regime with phase := .listen })
  | restarts (straps : BitVec 5) (svc dominant : Bool) (hc : c = .fullReset straps svc dominant) (h : r.mode = .starting)
  | enters (hc : c = .listenEnd) (hp : s.sup.phase = .listen)
      (h : r = ⟨entryMode s.sup.svcStrap s.line.isolation, .entry, s.line.isolation⟩)

section
variable {c : Instr} {s u : State}

theorem RegimeStep.acts {b : Prop} [Decidable b] (h : u.regime = s.regime) : RegimeStep c s (if b then u else s).regime :=
  .unchanged (ite_regime h rfl)

theorem RegimeStep.finish (s0 : State) (h : RegimeStep c s u.regime) : RegimeStep c s (u.finish s0).regime := by
  rwa [finish_regime]

theorem RegimeStep.guarded {b : Prop} [Decidable b] (h : b → RegimeStep c s u.regime) :
    RegimeStep c s (if b then u.finish s else s).regime := by
  split
  · next hb => exact (h hb).finish s
  · exact .unchanged rfl

/-- The end of a command that isolates at most. -/
theorem RegimeStep.of_isolation (h : u.regime = s.regime ∨ u.regime = s.regime.isolate) : RegimeStep c s u.regime :=
  h.elim .unchanged .isolates

end

/-- Every command completes, and changes the mode, the phase and the isolation condition in one of the listed ways. -/
theorem exec_regimeStep (c : Instr) (s : State) : completes c s (fun t => RegimeStep c s t.regime) := by
  cases c with
  -- start-up
  | fullReset straps svc dominant => exact ⟨_, rfl, .restarts straps svc dominant rfl rfl⟩
  | presenceChannelTest c load =>
    have habsent : ∀ u : State, (u.takeAbsent c).regime = u.regime := fun _ => ite_regime rfl rfl
    exact ⟨_, rfl, .acts (ite_regime rfl (habsent _))⟩
  | presenceEnd anemoBias vane rain heat driverFlag =>
    exact ⟨_, rfl, .guarded fun _ => .detected (endPresence_regime s anemoBias vane rain heat driverFlag)⟩
  | listenEnd =>
    refine ⟨_, rfl, .guarded fun hlisten => .enters rfl ?_ (leaveStarting_regime s)⟩
    rw [Bool.and_eq_true, decide_eq_true_eq] at hlisten
    exact hlisten.1
  -- the roof line
  | noticeReceived rest =>
    exact ⟨_, rfl, .finish s (.unchanged ((takeChars_regime _ _).trans (startNotice_regime s rest)))⟩
  | gap => exact ⟨_, rfl, .guarded fun _ => .unchanged rfl⟩
  | span11BitTimes => exact ⟨_, rfl, .finish s (.unchanged (reachSpan11_regime s))⟩
  | recoveryComplete => exact ⟨_, rfl, .acts rfl⟩
  | spanRelease len =>
    unfold completes exec execSpanRelease
    cases s.line.drive with
    | breakPulse => exact ⟨_, rfl, .unchanged rfl⟩
    | released | notice | holdDown => exact ⟨_, rfl, .finish s (.of_isolation (releaseSpan_regime s _))⟩
  | lineStuck => exact ⟨_, rfl, .finish s (.isolates (reachStuck_regime s))⟩
  | attemptBegin idle =>
    unfold completes exec execAttemptBegin
    cases s.line.queue with
    | nil => exact ⟨_, rfl, .unchanged rfl⟩
    | cons e rest => exact ⟨_, rfl, .acts rfl⟩
  | lostContention =>
    exact ⟨_, rfl, .guarded fun _ => .unchanged (ite_regime (failAttempt_regime s) (failAttempt_regime s))⟩
  | echoFault => exact ⟨_, rfl, .guarded fun _ => .of_isolation (failEcho_regime s)⟩
  | cleanEcho =>
    unfold completes exec execCleanEcho
    cases s.line.flight with
    | none => exact ⟨_, rfl, .unchanged rfl⟩
    | some f => exact ⟨_, rfl, .finish s (.rejoins (echoClean_regime s f))⟩
  | preemptiveBreak => exact ⟨_, rfl, .acts rfl⟩
  | breakEnd released =>
    have hrelease := lineAtRelease_regime s.releaseTerminal.spanOfBreak released
    rw [spanOfBreak_regime] at hrelease
    exact ⟨_, rfl, .guarded fun _ => .of_isolation hrelease⟩
  | pulseBegin => exact ⟨_, rfl, .acts (ite_regime rfl ((finish_regime _ s).trans (startGeneral_regime _)))⟩
  | pulseEnd released =>
    exact ⟨_, rfl, .guarded fun _ => .of_isolation (lineAtRelease_regime s.releaseTerminal released)⟩
  | startBitSample dominant =>
    unfold completes exec execStartBitSample
    cases dominant <;> cases s.line.receiver <;> exact ⟨_, rfl, .unchanged rfl⟩
  | characterEnd char stop => exact ⟨_, rfl, .finish s (.unchanged (takeChar_regime s char stop))⟩
  | dominantEdge => exact ⟨_, rfl, .unchanged (ite_regime rfl rfl)⟩
  -- the schedules and the Peer View
  | fireResend =>
    exact ⟨_, rfl, .guarded fun _ => .unchanged ((refreshFire_regime _).trans (queueFire_regime s))⟩
  | overrideRepeat => exact ⟨_, rfl, .guarded fun _ => .unchanged (queueOverride_regime s)⟩
  | statusPeriodic => exact ⟨_, rfl, .guarded fun _ => .unchanged (regime_of_kept (queueStatus_kept s))⟩
  | statusSpacingExpiry => exact ⟨_, rfl, .finish s (.unchanged rfl)⟩
  | weatherPeriod => exact ⟨_, rfl, .guarded fun _ => .unchanged (queueWeather_regime s)⟩
  | vdemSample raw =>
    exact ⟨_, rfl, .acts (ite_regime ((finish_regime _ s).trans (queueVentilate_regime _)) rfl)⟩
  | ventilatePeriod => exact ⟨_, rfl, .guarded fun _ => .unchanged (queueVentilate_regime s)⟩
  | healthPeriod => exact ⟨_, rfl, .guarded fun _ => .unchanged (queueHealth_regime s)⟩
  | reportExpiry bay => exact ⟨_, rfl, .guarded fun _ => .unchanged (recombine_regime _)⟩
  | entryStale bay => exact ⟨_, rfl, .guarded fun _ => .unchanged rfl⟩
  | entryRemoval bay => exact ⟨_, rfl, .guarded fun _ => .unchanged (ite_regime (recombine_regime _) rfl)⟩
  | bayConflictExpiry => exact ⟨_, rfl, .guarded fun _ => .unchanged rfl⟩
  -- the sensors
  | gateEnd pulses vane => exact ⟨_, rfl, .guarded fun _ => .unchanged (endGate_regime s pulses vane)⟩
  | rainScan raw => exact ⟨_, rfl, .guarded fun _ => .unchanged (scanRain_regime s raw)⟩
  | heatSample raw => exact ⟨_, rfl, .guarded fun _ => .unchanged (sampleHeat_regime s raw)⟩
  | stormClearExpiry => exact ⟨_, rfl, .guarded fun _ => .unchanged (clearStorm_regime s)⟩
  -- fire and the keys
  | loopReading raw => exact ⟨_, rfl, .acts rfl⟩
  | loopSettle =>
    unfold completes exec execLoopSettle
    cases s.fire.candidate <;> cases s.fire.candidateTimer
    case some.some cl n =>
      exact ⟨_, rfl, .unchanged (ite_regime rfl ((finish_regime _ s).trans (settleLoop_regime s cl)))⟩
    all_goals exact ⟨_, rfl, .unchanged rfl⟩
  | contactClearExpiry => exact ⟨_, rfl, .guarded fun _ => .unchanged (setCauses_regime _ _ _)⟩
  | generalTimerExpiry => exact ⟨_, rfl, .guarded fun _ => .unchanged (refreshFire_regime _)⟩
  | pulseTimerExpiry => exact ⟨_, rfl, .guarded fun _ => .unchanged (requestPulse_regime _)⟩
  | fkeyReading openClosed closeClosed => exact ⟨_, rfl, .unchanged (ite_regime rfl (ite_regime rfl rfl))⟩
  | fkeyTaken =>
    unfold completes exec execFkeyTaken
    cases s.fire.keyCandidate <;> cases s.fire.keyTimer
    case some.some pos n => exact ⟨_, rfl, .finish s (.unchanged (takeFkey_regime s pos))⟩
    all_goals exact ⟨_, rfl, .unchanged rfl⟩
  | overrideOriginExpiry bay => exact ⟨_, rfl, .guarded fun _ => .unchanged (setOverrides_regime s _)⟩
  | lkeyReading openClosed closeClosed => exact ⟨_, rfl, .unchanged (ite_regime rfl (ite_regime rfl rfl))⟩
  | lkeyTaken =>
    unfold completes exec execLkeyTaken
    cases s.dem.keyCandidate <;> cases s.dem.keyTimer
    case some.some pos n => exact ⟨_, rfl, .finish s (.unchanged (takeLkey_regime s pos))⟩
    all_goals exact ⟨_, rfl, .unchanged rfl⟩
  | ventilationOriginExpiry bay => exact ⟨_, rfl, .guarded fun _ => .unchanged (setVentMap_regime s _)⟩
  -- the start budget
  | settleExpiry => exact ⟨_, rfl, .guarded fun _ => .unchanged (regime_of_kept (decideClaim_kept s))⟩
  | itemAgeOut bay => exact ⟨_, rfl, .guarded fun _ => .unchanged (removeItems_regime s _ _)⟩
  | isolatedStart => exact ⟨_, rfl, .guarded fun _ => .unchanged rfl⟩
  -- the channel drive
  | referenceTimerExpiry c =>
    exact ⟨_, rfl, .guarded fun _ => .unchanged (regime_of_kept (testReference_kept _ c))⟩
  | hallPulse c => exact ⟨_, rfl, .unchanged (ite_regime rfl ((finish_regime _ s).trans (testStop_regime _ c)))⟩
  | coastWindowClose c => exact ⟨_, rfl, .unchanged rfl⟩
  | inrushMaskEnd c => exact ⟨_, rfl, .acts rfl⟩
  | currentReport c mean => exact ⟨_, rfl, .guarded fun _ => .unchanged rfl⟩
  | stall c => exact ⟨_, rfl, .guarded fun _ => .unchanged (takeStall_regime s c)⟩
  | overcurrent c | noPulse c | openLoad c =>
    exact ⟨_, rfl, .guarded fun _ => .unchanged (regime_of_kept (channelFault_kept s c _))⟩
  | retryExpiry c =>
    exact ⟨_, rfl, .acts (ite_regime rfl ((finish_regime _ s).trans (regime_of_kept (retryChan_kept s c))))⟩
  | reversalPauseEnd c => exact ⟨_, rfl, .guarded fun _ => .unchanged (endPause_regime s c)⟩
  | jogTimerExpiry c => exact ⟨_, rfl, .guarded fun _ => .unchanged (endJog_regime s c)⟩
  -- the limits, the supply and the lamp
  | dutyWindowEnd c => exact ⟨_, rfl, .acts rfl⟩
  | runTick c => exact ⟨_, rfl, .guarded fun _ => .unchanged (countTick_regime s c)⟩
  | throttleEnd c => exact ⟨_, rfl, .guarded fun _ => .unchanged (endThrottle_regime s c)⟩
  | driverFlagSet => exact ⟨_, rfl, .guarded fun _ => .unchanged (startHold_regime s)⟩
  | thermalHoldEnd flag =>
    exact ⟨_, rfl, .acts (ite_regime rfl ((finish_regime _ s).trans (endHold_regime s)))⟩
  | vmotReading decivolts => exact ⟨_, rfl, .acts rfl⟩
  | supplyLowSet => exact ⟨_, rfl, .guarded fun _ => .unchanged (setLow_regime s)⟩
  | supplyLowClear => exact ⟨_, rfl, .guarded fun _ => .unchanged (clearLow_regime s)⟩
  | supplyHighSet => exact ⟨_, rfl, .guarded fun _ => .unchanged (setHigh_regime s)⟩
  | supplyHighClear => exact ⟨_, rfl, .guarded fun _ => .unchanged (clearHigh_regime s)⟩
  | lampCycleStep => exact ⟨_, rfl, .acts rfl⟩
  -- the service port
  | requestTimeout => exact ⟨_, rfl, .unchanged rfl⟩
  | readWord _ | readStage _ | stageWord _ _ | readState | readPeer _ =>
    exact ⟨_, rfl, .unchanged (serve_regime (by exact fun _ => rfl) s _)⟩
  | program => exact ⟨_, rfl, .unchanged (serve_regime serveProgram_regime s _)⟩
  | programWordWritten =>
    unfold completes exec execProgramWordWritten
    cases s.svc.programming with
    | none => exact ⟨_, rfl, .unchanged rfl⟩
    | some i => exact ⟨_, rfl, .unchanged (ite_regime rfl rfl)⟩
  | jog channel direction time => exact ⟨_, rfl, .unchanged (requestJog_regime s _ _ _)⟩
  | stop channel => exact ⟨_, rfl, .unchanged (requestStop_regime s _)⟩
  | badCommandRequest bytes => exact ⟨_, rfl, .acts (takeBytes_regime s bytes)⟩

/-! ## The changes of the mode (R162, R163) -/

theorem isolate_changes (r : Regime) : r.isolate.mode = r.mode ∨
    (r.mode = .normal ∧ r.isolate.mode = .isolated ∧ r.isolation = false ∧ r.isolate.isolation = true) := by
  by_cases hset : r.isolation = true
  · simp [Regime.isolate, hset]
  · by_cases hmode : r.mode = .normal <;> simp [Regime.isolate, hset, hmode]

theorem rejoin_changes (r : Regime) : r.rejoin.mode = r.mode ∨
    (r.mode = .isolated ∧ r.rejoin.mode = .normal ∧ r.isolation = true ∧ r.rejoin.isolation = false) := by
  by_cases hset : r.isolation = true
  · by_cases hmode : r.mode = .isolated <;> simp [Regime.rejoin, hset, hmode]
  · simp [Regime.rejoin, hset]

/-- Settles O11: of the ways in which a command changes the mode, the phase and the isolation condition, the setting and the clearing of
that condition are the first two of R163, the full reset its third, and the entry is R162's. -/
theorem modeChanges : Obligations.ModeChanges := by
  intro c s t h
  obtain ⟨u, hu, hstep⟩ := exec_regimeStep c s
  obtain rfl : t = u := by simpa [h] using hu
  cases hstep with
  | unchanged h => exact .inl (congrArg Regime.mode h)
  | detected h => exact .inl (congrArg Regime.mode h)
  | isolates h =>
    have hchange := isolate_changes s.regime
    rw [← h] at hchange
    exact hchange.imp_right .inl
  | rejoins h =>
    have hchange := rejoin_changes s.regime
    rw [← h] at hchange
    exact hchange.imp_right fun hclear => .inr (.inl hclear)
  | restarts straps svc dominant hc h => exact .inr (.inr (.inr (.inl ⟨h, straps, svc, dominant, hc⟩)))
  | enters hc hp h =>
    exact .inr (.inr (.inr (.inr
      ⟨hc, hp, congrArg Regime.phase h, congrArg Regime.isolation h, congrArg Regime.mode h⟩)))

end Sys2Proof.Machine
end
